-- ==== Sys2Proof/Word.lean ====
section
/-! DEFINITION. The word types of the machine: the widths that 00_scope.md rule R6 and 30_encoding.md rule R91 fix.
All values are unsigned (rule R10). -/

namespace Sys2Proof

/-- A register, a memory cell, a timer, an immediate `NN`: 8 bits (R6, R91). -/
abbrev Byte := BitVec 8

/-- The program counter, the index register, a stack entry, an instruction word: 16 bits (R6, R90). -/
abbrev Word := BitVec 16

/-- A register number `X` or `Y`, a row count `N`, a key index: 4 bits (R91, R28). -/
abbrev Nibble := BitVec 4

/-- An address immediate `NNN`: 12 bits (R91). -/
abbrev Addr12 := BitVec 12

end Sys2Proof
end

