-- ==== Sys2Proof/Syntax.lean ====
section
/-! DEFINITION. The 34 instructions of 30_encoding.md rule R96, one constructor per row of the opcode table, with the
operand fields of rule R91 that the row has. -/

namespace Sys2Proof

/-- An instruction with its field values (R94, R96). Each field has exactly the width of rule R91 and all its values are
legal (R93), so there is no ill-formed term of this type. -/
inductive Instr where
  /-- `CLS` (CLS, R200). -/
  | cls
  /-- `RET` (RET, R140). -/
  | ret
  /-- `JP addr` (JP, R141). -/
  | jp (nnn : Addr12)
  /-- `CALL addr` (CALL, R142). -/
  | call (nnn : Addr12)
  /-- `SE Vx, byte` (SE, R143). -/
  | se (x : Nibble) (nn : Byte)
  /-- `SNE Vx, byte` (SNE, R144). -/
  | sne (x : Nibble) (nn : Byte)
  /-- `SE Vx, Vy` (SE_REG, R145). -/
  | seReg (x : Nibble) (y : Nibble)
  /-- `SNE Vx, Vy` (SNE_REG, R146). -/
  | sneReg (x : Nibble) (y : Nibble)
  /-- `LD Vx, byte` (LD_IMM, R161). -/
  | ldImm (x : Nibble) (nn : Byte)
  /-- `ADD Vx, byte` (ADD_IMM, R162). -/
  | addImm (x : Nibble) (nn : Byte)
  /-- `LD Vx, Vy` (LD_REG, R163). -/
  | ldReg (x : Nibble) (y : Nibble)
  /-- `OR Vx, Vy` (OR, R164). -/
  | orReg (x : Nibble) (y : Nibble)
  /-- `AND Vx, Vy` (AND, R165). -/
  | andReg (x : Nibble) (y : Nibble)
  /-- `XOR Vx, Vy` (XOR, R166). -/
  | xorReg (x : Nibble) (y : Nibble)
  /-- `ADD Vx, Vy` (ADD_REG, R167). -/
  | addReg (x : Nibble) (y : Nibble)
  /-- `SUB Vx, Vy` (SUB, R168). -/
  | sub (x : Nibble) (y : Nibble)
  /-- `SHR Vx, Vy` (SHR, R169). -/
  | shr (x : Nibble) (y : Nibble)
  /-- `SUBN Vx, Vy` (SUBN, R170). -/
  | subn (x : Nibble) (y : Nibble)
  /-- `SHL Vx, Vy` (SHL, R171). -/
  | shl (x : Nibble) (y : Nibble)
  /-- `LD I, addr` (LD_I, R181). -/
  | ldI (nnn : Addr12)
  /-- `JP V0, addr` (JP_V0, R148). -/
  | jpV0 (nnn : Addr12)
  /-- `RND Vx, byte` (RND, R172). -/
  | rnd (x : Nibble) (nn : Byte)
  /-- `DRW Vx, Vy, nibble` (DRW, R201). -/
  | drw (x : Nibble) (y : Nibble) (n : Nibble)
  /-- `SKP Vx` (SKP, R220). -/
  | skp (x : Nibble)
  /-- `SKNP Vx` (SKNP, R221). -/
  | sknp (x : Nibble)
  /-- `LD Vx, DT` (LD_VX_DT, R224). -/
  | ldVxDt (x : Nibble)
  /-- `LD Vx, K` (LD_VX_K, R222). -/
  | ldVxK (x : Nibble)
  /-- `LD DT, Vx` (LD_DT_VX, R226). -/
  | ldDtVx (x : Nibble)
  /-- `LD ST, Vx` (LD_ST_VX, R225). -/
  | ldStVx (x : Nibble)
  /-- `ADD I, Vx` (ADD_I, R182). -/
  | addI (x : Nibble)
  /-- `LD F, Vx` (LD_F, R183). -/
  | ldF (x : Nibble)
  /-- `LD B, Vx` (LD_B, R184). -/
  | ldB (x : Nibble)
  /-- `LD [I], Vx` (ST_REGS, R186). -/
  | stRegs (x : Nibble)
  /-- `LD Vx, [I]` (LD_REGS, R187). -/
  | ldRegs (x : Nibble)
deriving DecidableEq, Repr

end Sys2Proof
end

