-- ==== Sys2Proof/WellFormed.lean ====
section
/-! DEFINITION. Which words are instructions: the opcode map of 30_encoding.md rule R96 as match and mask pairs (R94),
the valid words, and the canonical words of rule R98. It is written from the table alone and shares nothing with the
two-level decoder of Decode.lean, so that the two can be held against each other. -/

namespace Sys2Proof

/-- A row of the opcode map: `w` is this row's instruction iff `w AND mask = pattern` (R94). -/
structure Row where
  mnemonic : String
  pattern  : Word
  mask     : Word
deriving DecidableEq, Repr

/-- The word `w` matches the row `r` (R94). -/
def Row.covers (r : Row) (w : Word) : Bool := w &&& r.mask == r.pattern

/-- The row of each instruction (R96). -/
def Instr.row : Instr → Row
  | .cls => ⟨"CLS", 0x00E0, 0xFFFF⟩
  | .ret => ⟨"RET", 0x00EE, 0xFFFF⟩
  | .jp _ => ⟨"JP", 0x1000, 0xF000⟩
  | .call _ => ⟨"CALL", 0x2000, 0xF000⟩
  | .se _ _ => ⟨"SE", 0x3000, 0xF000⟩
  | .sne _ _ => ⟨"SNE", 0x4000, 0xF000⟩
  | .seReg _ _ => ⟨"SE_REG", 0x5000, 0xF000⟩
  | .sneReg _ _ => ⟨"SNE_REG", 0x9000, 0xF000⟩
  | .ldImm _ _ => ⟨"LD_IMM", 0x6000, 0xF000⟩
  | .addImm _ _ => ⟨"ADD_IMM", 0x7000, 0xF000⟩
  | .ldReg _ _ => ⟨"LD_REG", 0x8000, 0xF00F⟩
  | .orReg _ _ => ⟨"OR", 0x8001, 0xF00F⟩
  | .andReg _ _ => ⟨"AND", 0x8002, 0xF00F⟩
  | .xorReg _ _ => ⟨"XOR", 0x8003, 0xF00F⟩
  | .addReg _ _ => ⟨"ADD_REG", 0x8004, 0xF00F⟩
  | .sub _ _ => ⟨"SUB", 0x8005, 0xF00F⟩
  | .shr _ _ => ⟨"SHR", 0x8006, 0xF00F⟩
  | .subn _ _ => ⟨"SUBN", 0x8007, 0xF00F⟩
  | .shl _ _ => ⟨"SHL", 0x800E, 0xF00F⟩
  | .ldI _ => ⟨"LD_I", 0xA000, 0xF000⟩
  | .jpV0 _ => ⟨"JP_V0", 0xB000, 0xF000⟩
  | .rnd _ _ => ⟨"RND", 0xC000, 0xF000⟩
  | .drw _ _ _ => ⟨"DRW", 0xD000, 0xF000⟩
  | .skp _ => ⟨"SKP", 0xE09E, 0xF0FF⟩
  | .sknp _ => ⟨"SKNP", 0xE0A1, 0xF0FF⟩
  | .ldVxDt _ => ⟨"LD_VX_DT", 0xF007, 0xF0FF⟩
  | .ldVxK _ => ⟨"LD_VX_K", 0xF00A, 0xF0FF⟩
  | .ldDtVx _ => ⟨"LD_DT_VX", 0xF015, 0xF0FF⟩
  | .ldStVx _ => ⟨"LD_ST_VX", 0xF018, 0xF0FF⟩
  | .addI _ => ⟨"ADD_I", 0xF01E, 0xF0FF⟩
  | .ldF _ => ⟨"LD_F", 0xF029, 0xF0FF⟩
  | .ldB _ => ⟨"LD_B", 0xF033, 0xF0FF⟩
  | .stRegs _ => ⟨"ST_REGS", 0xF055, 0xF0FF⟩
  | .ldRegs _ => ⟨"LD_REGS", 0xF065, 0xF0FF⟩

/-- Groups 0 to 5 and 9: rows 1 to 8 of R96. -/
def rowsControl : List Row := [
  ⟨"CLS", 0x00E0, 0xFFFF⟩,
  ⟨"RET", 0x00EE, 0xFFFF⟩,
  ⟨"JP", 0x1000, 0xF000⟩,
  ⟨"CALL", 0x2000, 0xF000⟩,
  ⟨"SE", 0x3000, 0xF000⟩,
  ⟨"SNE", 0x4000, 0xF000⟩,
  ⟨"SE_REG", 0x5000, 0xF000⟩,
  ⟨"SNE_REG", 0x9000, 0xF000⟩]

/-- Groups 6 and 7: rows 9 and 10 of R96. -/
def rowsLoadAdd : List Row := [
  ⟨"LD_IMM", 0x6000, 0xF000⟩,
  ⟨"ADD_IMM", 0x7000, 0xF000⟩]

/-- Group 8: rows 11 to 19 of R96. -/
def rowsGroup8 : List Row := [
  ⟨"LD_REG", 0x8000, 0xF00F⟩,
  ⟨"OR", 0x8001, 0xF00F⟩,
  ⟨"AND", 0x8002, 0xF00F⟩,
  ⟨"XOR", 0x8003, 0xF00F⟩,
  ⟨"ADD_REG", 0x8004, 0xF00F⟩,
  ⟨"SUB", 0x8005, 0xF00F⟩,
  ⟨"SHR", 0x8006, 0xF00F⟩,
  ⟨"SUBN", 0x8007, 0xF00F⟩,
  ⟨"SHL", 0x800E, 0xF00F⟩]

/-- Groups A to D: rows 20 to 23 of R96. -/
def rowsIndexDraw : List Row := [
  ⟨"LD_I", 0xA000, 0xF000⟩,
  ⟨"JP_V0", 0xB000, 0xF000⟩,
  ⟨"RND", 0xC000, 0xF000⟩,
  ⟨"DRW", 0xD000, 0xF000⟩]

/-- Groups E and F: rows 24 to 34 of R96. -/
def rowsGroupEF : List Row := [
  ⟨"SKP", 0xE09E, 0xF0FF⟩,
  ⟨"SKNP", 0xE0A1, 0xF0FF⟩,
  ⟨"LD_VX_DT", 0xF007, 0xF0FF⟩,
  ⟨"LD_VX_K", 0xF00A, 0xF0FF⟩,
  ⟨"LD_DT_VX", 0xF015, 0xF0FF⟩,
  ⟨"LD_ST_VX", 0xF018, 0xF0FF⟩,
  ⟨"ADD_I", 0xF01E, 0xF0FF⟩,
  ⟨"LD_F", 0xF029, 0xF0FF⟩,
  ⟨"LD_B", 0xF033, 0xF0FF⟩,
  ⟨"ST_REGS", 0xF055, 0xF0FF⟩,
  ⟨"LD_REGS", 0xF065, 0xF0FF⟩]

/-- The 34 rows of the opcode map, in the order of R96. -/
def rows : List Row :=
  rowsControl ++ rowsLoadAdd ++ rowsGroup8 ++ rowsIndexDraw ++ rowsGroupEF

/-- A word that is an instruction: one of the 51634 of R100. Every other word is invalid. -/
def validWord (w : Word) : Bool := rows.any fun r => r.covers w

/-- A word an assembler may emit: valid, and with bits 3 to 0 zero in the groups 5 and 9, whose decoder ignores
them (R98). -/
def canonicalWord (w : Word) : Bool :=
  validWord w && !((w &&& 0xF000 == 0x5000 || w &&& 0xF000 == 0x9000) && w &&& 0x000F != 0)

/-- An instruction term is well formed when its row is a row of the opcode map; by the field widths of its type every
term is (R93: all values of a field are legal). -/
def Instr.wellFormed (i : Instr) : Bool := rows.contains i.row

end Sys2Proof
end

