-- ==== Sys2Proof/Decode.lean ====
section
/-! DEFINITION. Decoding (30_encoding.md rules R90 to R100) and, after it, encoding from the same table. -/

namespace Sys2Proof

/-- Why no instruction is read. -/
inductive Reject where
  /-- The word matches no row of the opcode map (R100). -/
  | invalidOpcode (op : Word)
  /-- Fewer than the two bytes of an instruction are there (R90). -/
  | truncated
deriving DecidableEq, Repr

/-- `G`, the top nibble: bits 15 to 12 (R91). -/
def fieldG (op : Word) : Nibble := op.extractLsb' 12 4

/-- `X`: bits 11 to 8 (R91). -/
def fieldX (op : Word) : Nibble := op.extractLsb' 8 4

/-- `Y`: bits 7 to 4 (R91). -/
def fieldY (op : Word) : Nibble := op.extractLsb' 4 4

/-- `N`: bits 3 to 0 (R91). -/
def fieldN (op : Word) : Nibble := op.extractLsb' 0 4

/-- `NN`: bits 7 to 0 (R91). -/
def fieldNN (op : Word) : Byte := op.extractLsb' 0 8

/-- `NNN`: bits 11 to 0 (R91). -/
def fieldNNN (op : Word) : Addr12 := op.extractLsb' 0 12

/-- The word of two bytes, the one at the lower address in bits 15 to 8: big-endian (R63, R90). -/
def wordOfBytes (hi lo : Byte) : Word := hi ++ lo

/-- Group 0: all twelve low bits are the secondary key (R94). -/
def decodeGroup0 (op : Word) : Except Reject Instr :=
  match (fieldNNN op).toNat with
  | 0x0E0 => .ok .cls
  | 0x0EE => .ok .ret
  | _ => .error (.invalidOpcode op)

/-- Group 8: `N` is the secondary key (R94). -/
def decodeGroup8 (op : Word) : Except Reject Instr :=
  match (fieldN op).toNat with
  | 0x0 => .ok (.ldReg (fieldX op) (fieldY op))
  | 0x1 => .ok (.orReg (fieldX op) (fieldY op))
  | 0x2 => .ok (.andReg (fieldX op) (fieldY op))
  | 0x3 => .ok (.xorReg (fieldX op) (fieldY op))
  | 0x4 => .ok (.addReg (fieldX op) (fieldY op))
  | 0x5 => .ok (.sub (fieldX op) (fieldY op))
  | 0x6 => .ok (.shr (fieldX op) (fieldY op))
  | 0x7 => .ok (.subn (fieldX op) (fieldY op))
  | 0xE => .ok (.shl (fieldX op) (fieldY op))
  | _ => .error (.invalidOpcode op)

/-- Group E: `NN` is the secondary key (R94). -/
def decodeGroupE (op : Word) : Except Reject Instr :=
  match (fieldNN op).toNat with
  | 0x9E => .ok (.skp (fieldX op))
  | 0xA1 => .ok (.sknp (fieldX op))
  | _ => .error (.invalidOpcode op)

/-- Group F: `NN` is the secondary key (R94). -/
def decodeGroupF (op : Word) : Except Reject Instr :=
  match (fieldNN op).toNat with
  | 0x07 => .ok (.ldVxDt (fieldX op))
  | 0x0A => .ok (.ldVxK (fieldX op))
  | 0x15 => .ok (.ldDtVx (fieldX op))
  | 0x18 => .ok (.ldStVx (fieldX op))
  | 0x1E => .ok (.addI (fieldX op))
  | 0x29 => .ok (.ldF (fieldX op))
  | 0x33 => .ok (.ldB (fieldX op))
  | 0x55 => .ok (.stRegs (fieldX op))
  | 0x65 => .ok (.ldRegs (fieldX op))
  | _ => .error (.invalidOpcode op)

/-- The decoder: dispatch on the top nibble, then on the group's secondary key (R94, R96). Groups 5 and 9 ignore bits
3 to 0 (R98, log entry 13). Total on the 65536 words; a word of no row is rejected by name (R100). -/
def decode (op : Word) : Except Reject Instr :=
  match (fieldG op).toNat with
  | 0x0 => decodeGroup0 op
  | 0x1 => .ok (.jp (fieldNNN op))
  | 0x2 => .ok (.call (fieldNNN op))
  | 0x3 => .ok (.se (fieldX op) (fieldNN op))
  | 0x4 => .ok (.sne (fieldX op) (fieldNN op))
  | 0x5 => .ok (.seReg (fieldX op) (fieldY op))
  | 0x6 => .ok (.ldImm (fieldX op) (fieldNN op))
  | 0x7 => .ok (.addImm (fieldX op) (fieldNN op))
  | 0x8 => decodeGroup8 op
  | 0x9 => .ok (.sneReg (fieldX op) (fieldY op))
  | 0xA => .ok (.ldI (fieldNNN op))
  | 0xB => .ok (.jpV0 (fieldNNN op))
  | 0xC => .ok (.rnd (fieldX op) (fieldNN op))
  | 0xD => .ok (.drw (fieldX op) (fieldY op) (fieldN op))
  | 0xE => decodeGroupE op
  | 0xF => decodeGroupF op
  | _ => .error (.invalidOpcode op)

/-- Decoding of a byte sequence: the instruction of its first two bytes and the bytes after it. -/
def decodeBytes : List Byte → Except Reject (Instr × List Byte)
  | hi :: lo :: rest =>
    match decode (wordOfBytes hi lo) with
    | .ok i => .ok (i, rest)
    | .error r => .error r
  | _ => .error .truncated

/-! Encoding. -/

/-- A word of four nibbles, `a` in bits 15 to 12. -/
def wordXYN (a x y n : Nibble) : Word := (a ++ x ++ y ++ n : BitVec (4 + 4 + 4 + 4))

/-- A word of a group nibble, `X` and `NN`. -/
def wordXNN (a x : Nibble) (nn : Byte) : Word := (a ++ x ++ nn : BitVec (4 + 4 + 8))

/-- A word of a group nibble and `NNN`. -/
def wordNNN (a : Nibble) (nnn : Addr12) : Word := (a ++ nnn : BitVec (4 + 12))

/-- The canonical word of an instruction (R96, R98). -/
def encode : Instr → Word
  | .cls => wordNNN 0x0 0x0E0
  | .ret => wordNNN 0x0 0x0EE
  | .jp nnn => wordNNN 0x1 nnn
  | .call nnn => wordNNN 0x2 nnn
  | .se x nn => wordXNN 0x3 x nn
  | .sne x nn => wordXNN 0x4 x nn
  | .seReg x y => wordXYN 0x5 x y 0x0
  | .sneReg x y => wordXYN 0x9 x y 0x0
  | .ldImm x nn => wordXNN 0x6 x nn
  | .addImm x nn => wordXNN 0x7 x nn
  | .ldReg x y => wordXYN 0x8 x y 0x0
  | .orReg x y => wordXYN 0x8 x y 0x1
  | .andReg x y => wordXYN 0x8 x y 0x2
  | .xorReg x y => wordXYN 0x8 x y 0x3
  | .addReg x y => wordXYN 0x8 x y 0x4
  | .sub x y => wordXYN 0x8 x y 0x5
  | .shr x y => wordXYN 0x8 x y 0x6
  | .subn x y => wordXYN 0x8 x y 0x7
  | .shl x y => wordXYN 0x8 x y 0xE
  | .ldI nnn => wordNNN 0xA nnn
  | .jpV0 nnn => wordNNN 0xB nnn
  | .rnd x nn => wordXNN 0xC x nn
  | .drw x y n => wordXYN 0xD x y n
  | .skp x => wordXNN 0xE x 0x9E
  | .sknp x => wordXNN 0xE x 0xA1
  | .ldVxDt x => wordXNN 0xF x 0x07
  | .ldVxK x => wordXNN 0xF x 0x0A
  | .ldDtVx x => wordXNN 0xF x 0x15
  | .ldStVx x => wordXNN 0xF x 0x18
  | .addI x => wordXNN 0xF x 0x1E
  | .ldF x => wordXNN 0xF x 0x29
  | .ldB x => wordXNN 0xF x 0x33
  | .stRegs x => wordXNN 0xF x 0x55
  | .ldRegs x => wordXNN 0xF x 0x65

/-- The byte of a word at the lower address: bits 15 to 8 (R63). -/
def highByte (op : Word) : Byte := op.extractLsb' 8 8

/-- The byte of a word at the higher address: bits 7 to 0 (R63). -/
def lowByte (op : Word) : Byte := op.extractLsb' 0 8

/-- The two bytes of an instruction as memory holds them, the lower address first (R63). -/
def encodeBytes (i : Instr) : List Byte := [highByte (encode i), lowByte (encode i)]

/-- The 16-bit word whose low `nbits` bits are those of `w` and whose other bits are 0. -/
def tableWord (nbits w : Nat) : Word := BitVec.ofNat 16 (w % 2 ^ nbits)

/-- What the decoder reads from an instruction whose bits are `w`, numbered as the opcode table numbers them (one word,
bit 0 its least significant), laid out in memory order. -/
def decodeTableWord (nbits w : Nat) : Option Instr :=
  match decodeBytes [highByte (tableWord nbits w), lowByte (tableWord nbits w)] with
  | .ok (i, _) => some i
  | .error _ => none

end Sys2Proof
end

