-- ==== Sys2Proof/Config.lean ====
section
/-! DEFINITION. What is fixed for this hardware (00_scope.md rule R6) and the inputs the host has not supplied, as free
values (log entry 1). The quirk parameters of rule R9 have one value each on this hardware and are built into the meanings
(log entry 15). -/

namespace Sys2Proof.Config

/-- `MEM_SIZE`: cells of memory, addresses `0x000..0xFFF` (R6). -/
@[simp] abbrev memSize : Nat := 4096

/-- `FONT_BASE` (R6). -/
@[simp] abbrev fontBase : Nat := 0x000

/-- `FONT_LEN`: 16 glyphs of 5 bytes (R6). -/
@[simp] abbrev fontLen : Nat := 80

/-- Bytes of one glyph, so that the glyph of digit `d` is at `FONT_BASE + 5 * d` (R61). -/
@[simp] abbrev glyphLen : Nat := 5

/-- `PROG_BASE`: where the program is loaded and where `pc` starts (R6, R22). -/
@[simp] abbrev progBase : Nat := 0x200

/-- `PROG_MAX`: the longest program, `4096 - 0x200` bytes (R6, R69). -/
@[simp] abbrev progMax : Nat := 3584

/-- `STACK_DEPTH` (R6). -/
@[simp] abbrev stackDepth : Nat := 16

/-- `FB_W` (R6). -/
@[simp] abbrev fbWidth : Nat := 64

/-- `FB_H` (R6). -/
@[simp] abbrev fbHeight : Nat := 32

/-- `SPRITE_W` (R6). -/
@[simp] abbrev spriteWidth : Nat := 8

/-- `NKEYS` (R6). -/
@[simp] abbrev numKeys : Nat := 16

/-- FREE VALUE. The keypad snapshot of the cycle numbered `n` when the host has supplied none: any 16-bit value
(R32, R257). No body, so nothing can be proved of it. DESIGN CHOICE, log entry 1, safe. -/
opaque freeKeys (n : Nat) : BitVec 16

/-- FREE VALUE. The random byte of the cycle numbered `n` when the host has supplied none: any value
(R33, R172). No body, so nothing can be proved of it. DESIGN CHOICE, log entry 1, safe. -/
opaque freeRnd (n : Nat) : Byte

end Sys2Proof.Config
end

