-- ==== Sys2Proof/Machine/State.lean ====
section
/-! DEFINITION. The state of the core (10_state.md rule R36) as plain data, its reset value, and the reasons a cycle can
stop. The last two fields are the model's own: the inputs of the coming cycles (log entries 1 and 2). -/

namespace Sys2Proof.Machine

/-- The states of the key-wait latch `KWS`: the three legal values of its 2-bit field (R28). -/
inductive KeyWait where
  | idle
  | waitingForPress
  | waitingForRelease
deriving DecidableEq, Repr

/-- `KWS` as its 2-bit field (R28). -/
def KeyWait.code : KeyWait → BitVec 2
  | .idle => 0
  | .waitingForPress => 1
  | .waitingForRelease => 2

/-- The fault causes of 60_exceptions.md rule R240 with the `info` each carries. A fault is entered as the spec describes
it (R127, R244): a NEXT state in which nothing has changed but the latch `FAULT`, so no step answers `Outcome.fault`
(log entry 3). Each is safe: the machine stops, as the spec says it does. -/
inductive Fault where
  /-- Code 1. Raised by decode when the word is no instruction (R241). Safe. -/
  | invalidOpcode (op : Word)
  /-- Code 2. Raised by fetch when `pc + 1 ≥ 4096` (R242). Safe. -/
  | fetchOutOfBounds (pc : Word)
  /-- Code 3. Raised by `CALL` when `SP = 16`; carries the address of the `CALL` (R243). Safe. -/
  | stackOverflow (addr : Word)
  /-- Code 4. Raised by `RET` when `SP = 0`; carries the address of the `RET` (R243). Safe. -/
  | stackUnderflow (addr : Word)
  /-- Code 5. Raised by `DRW`, `LD_B`, `ST_REGS`, `LD_REGS` when the byte range passes `0xFFF`; carries `I` (R245). Safe. -/
  | dataAddressOutOfBounds (i : Word)
  /-- Code 6. Raised by `SKP`, `SKNP` when `VX > 15`; carries `VX` (R245). Safe. -/
  | keyIndexOutOfRange (k : Byte)
  /-- Code 7. Raised by the host operation `load` when the program is too long; carries its length (R246). Safe. -/
  | programTooLarge (len : Nat)
deriving DecidableEq, Repr

/-- The 3-bit cause code of rule R240. -/
def Fault.code : Fault → BitVec 3
  | .invalidOpcode _ => 1
  | .fetchOutOfBounds _ => 2
  | .stackOverflow _ => 3
  | .stackUnderflow _ => 4
  | .dataAddressOutOfBounds _ => 5
  | .keyIndexOutOfRange _ => 6
  | .programTooLarge _ => 7

/-- What has no meaning. Every instruction of the table has a meaning, so no step of the core refuses; the other two are
host operations out of the legal order (R282). -/
inductive Refusal where
  /-- Raised by `exec` for an instruction without a meaning yet: none is left. Safe. -/
  | notModelled (mnemonic : String)
  /-- Raised by the host operations `load` and `step` before the first `reset`: no state exists (R282). Safe. -/
  | noState
  /-- Raised by the host operation `load` after a `load` or a `step` (R282, log entry 10). Safe. -/
  | loadOutOfOrder
deriving DecidableEq, Repr

/-- What the host supplies with one step: the keypad snapshot, bit `k` = key `k` held (R32), and the random
byte (R33). -/
structure Input where
  keys : BitVec 16
  rnd  : Byte
deriving DecidableEq, Repr

/-- Memory: the cells that differ from the reset contents, by address (20_memory.md rule R60, log entry 6). Its canonical
form is `Memory.wf`. -/
abbrev Memory := List Host.Cell

structure State where
  /-- `V0..VF`; `VF` is the flag (R20, R21). -/
  v      : Vector Byte 16
  /-- `PC`: the address of the next instruction to fetch (R22). -/
  pc     : Word
  /-- `I` (R24). -/
  i      : Word
  /-- `SP`: the entries of the call stack in use, `0..16` (R25). -/
  sp     : Fin 17
  /-- The call stack (R25). -/
  stack  : Vector Word 16
  /-- `DT` (R26). -/
  dt     : Byte
  /-- `ST` (R27). -/
  st     : Byte
  /-- `KWS` (R28). -/
  kws    : KeyWait
  /-- `KW_KEY` (R28). -/
  kwKey  : Nibble
  /-- `FB` by rows, `y` from 0; bit `x` of row `y` is `FB[y*64+x]` (R31, log entry 7). -/
  fb     : Vector (BitVec 64) 32
  /-- `DIRTY` (R29). -/
  dirty  : Bool
  /-- `FAULT`, `none` for the code 0, with the `info` of the cause (R30, R240, log entry 4). -/
  fault  : Option Fault
  /-- `mem` (R34, R60). -/
  mem    : Memory
  /-- The inputs supplied for the coming cycles, the next one first (log entry 1). -/
  inputs : List Input
  /-- Completed cycles: the draw number of a free input, read by nothing else (log entries 1 and 2). -/
  cycle  : Nat
deriving DecidableEq, Repr

/-- The state after reset (R36, R280, R281): `pc` at `0x200`, everything else empty or zero, memory at its reset
contents. The zeros of `V`, `I`, `DT`, `ST`, `KW_KEY` and `stack` are the spec's decision D11 (log entry 5); no input is
supplied (log entry 2). -/
def State.reset : State where
  v      := Vector.replicate 16 0x00
  pc     := BitVec.ofNat 16 Config.progBase
  i      := 0x0000
  sp     := 0
  stack  := Vector.replicate 16 0x0000
  dt     := 0x00
  st     := 0x00
  kws    := .idle
  kwKey  := 0x0
  fb     := Vector.replicate 32 0
  dirty  := false
  fault  := none
  mem    := []
  inputs := []
  cycle  := 0

end Sys2Proof.Machine
end

