-- ==== Sys2Proof/Machine/Ops.lean ====
section
/-! DEFINITION. The named operations over the state: memory, registers, the program counter, the call stack, the
latches, the entry of a fault, and the end of a cycle. An operation's own rule of spec/ is cited at it. -/

namespace Sys2Proof.Machine

/-! Memory (20_memory.md). -/

/-- What a cell nothing has written holds: the font at `FONT_BASE`, `0x00` elsewhere (R66, R67, R281; log entry 6). -/
def Memory.resetByte (a : Nat) : Byte :=
  if Config.fontBase ≤ a ∧ a < Config.fontBase + Config.fontLen then font.getD (a - Config.fontBase) 0x00 else 0x00

/-- `MemRead(a, 1)` (R11, R60). Every caller has checked `a ≤ 0xFFF` first (R64, R121). -/
def Memory.read : Memory → Nat → Byte
  | [], a => Memory.resetByte a
  | c :: m, a => if c.1 = a then c.2 else Memory.read m a

/-- The memory without an entry for `a`, so that `a` reads as at reset. -/
def Memory.erase (m : Memory) (a : Nat) : Memory := m.filter fun c => c.1 != a

/-- The memory with an entry for `a` at its place in the rising order. -/
def Memory.insert : Memory → Nat → Byte → Memory
  | [], a, b => [(a, b)]
  | c :: m, a, b => if c.1 < a then c :: Memory.insert m a b else (a, b) :: c :: m

/-- `MemWrite(a, 1, b)` (R11, R60): one cell changes. A byte equal to the reset contents is not listed. Every caller has
checked `a ≤ 0xFFF` first. -/
def Memory.write (m : Memory) (a : Nat) (b : Byte) : Memory :=
  if b = Memory.resetByte a then Memory.erase m a else Memory.insert (Memory.erase m a) a b

/-- The bytes `bs` stored at `a, a+1, ...` in ascending order (R62). -/
def Memory.writeBytes (m : Memory) (a : Nat) : List Byte → Memory
  | [] => m
  | b :: bs => Memory.writeBytes (Memory.write m a b) (a + 1) bs

/-- The `n` bytes at `a, a+1, ...` (R62). -/
def Memory.readBytes (m : Memory) (a : Nat) : Nat → List Byte
  | 0 => []
  | n + 1 => Memory.read m a :: Memory.readBytes m (a + 1) n

/-- The canonical form, from the address `lo` on: addresses rise strictly and lie in `0x000..0xFFF`, and no entry equals
what its address reads as unlisted. -/
def Memory.wfFrom : Nat → Memory → Bool
  | _, [] => true
  | lo, c :: m =>
    decide (lo ≤ c.1) && decide (c.1 < Config.memSize) && c.2 != Memory.resetByte c.1 && Memory.wfFrom (c.1 + 1) m

/-- The canonical form of memory: equal memories are equal data. -/
def Memory.wf (m : Memory) : Bool := Memory.wfFrom 0 m

/-! Registers (10_state.md). -/

/-- `x[r]` (R11, R20). -/
def State.reg (s : State) (r : Nibble) : Byte := s.v[r.toNat]

/-- `x[r] <- b` (R11, R20). -/
def State.setReg (s : State) (r : Nibble) (b : Byte) : State := { s with v := s.v.set r.toNat b }

/-- The number of the flag register `VF` (R21). -/
def flagReg : Nibble := 0xF

/-- A result and then the flag: the flag is the last write, so it stands when `x` is `VF` (R160). -/
def State.setRegFlag (s : State) (x : Nibble) (b flag : Byte) : State := (s.setReg x b).setReg flagReg flag

/-- `V0, V1, ...` from the register number `k` on loaded with `bs`, in register order (R185). -/
def loadRegs (v : Vector Byte 16) (k : Nat) : List Byte → Vector Byte 16
  | [] => v
  | b :: bs => loadRegs (v.setIfInBounds k b) (k + 1) bs

/-- `V0, V1, ...` loaded with `bs` (R185). -/
def State.setRegs (s : State) (bs : List Byte) : State := { s with v := loadRegs s.v 0 bs }

/-- `V0..VX` in register order (R185). -/
def State.lowRegs (s : State) (x : Nibble) : List Byte := s.v.toList.take (x.toNat + 1)

/-- `I <- w` (R24). -/
def State.setI (s : State) (w : Word) : State := { s with i := w }

/-- `DT <- b` (R26). -/
def State.setDt (s : State) (b : Byte) : State := { s with dt := b }

/-- `ST <- b` (R27). -/
def State.setSt (s : State) (b : Byte) : State := { s with st := b }

/-- `mem` replaced (R60). -/
def State.setMem (s : State) (m : Memory) : State := { s with mem := m }

/-- `FB` replaced (R31). -/
def State.setFb (s : State) (fb : Vector (BitVec 64) 32) : State := { s with fb := fb }

/-- The key-wait latch set: `KWS` and `KW_KEY` (R28). -/
def State.setKeyWait (s : State) (w : KeyWait) (k : Nibble) : State := { s with kws := w, kwKey := k }

/-! The program counter (R22, R23). -/

/-- `npc`: the address of the next sequential instruction, modulo `2^16` (R121, R123 (d)). -/
def State.npc (s : State) : Word := s.pc + 2

/-- `pc <- target` (R11). -/
def State.goto (s : State) (target : Word) : State := { s with pc := target }

/-- The commit of a cycle that did not write `pc`: `pc <- npc` (R124). -/
def State.advance (s : State) : State := s.goto s.npc

/-- A conditional skip of one instruction: `pc <- npc + 2` when `c` holds, else `pc <- npc` (R143, R147). -/
def State.skipIf (s : State) (c : Bool) : State := s.goto (if c then s.npc + 2 else s.npc)

/-! The call stack (R25). -/

/-- A push: the entry at `SP` written, `SP` one higher; none when 16 entries are in use (R142). -/
def State.push (s : State) (w : Word) : Option State :=
  if h : s.sp.val < 16 then
    some { s with stack := s.stack.set s.sp.val w, sp := ⟨s.sp.val + 1, by omega⟩ }
  else none

/-- A pop: `SP` one lower and the entry at the new `SP`, which stays in the array; none when the stack is
empty (R140). -/
def State.pop (s : State) : Option (Word × State) :=
  if h : s.sp.val = 0 then none
  else some (s.stack[s.sp.val - 1], { s with sp := ⟨s.sp.val - 1, by omega⟩ })

/-! Taking a fault (60_exceptions.md rule R244). -/

/-- `raise f`: everything as at the start of the cycle, `FAULT` latched (R127, R244). There is no return from it: only
reset clears the latch (R248). -/
def State.raise (s : State) (f : Fault) : State := { s with fault := some f }

/-! The inputs of a cycle (R32, R33; log entry 1). -/

/-- The input of the coming cycle: the host's, or a free one when the host has supplied none. -/
def State.input (s : State) : Input :=
  match s.inputs with
  | inp :: _ => inp
  | [] => ⟨Config.freeKeys s.cycle, Config.freeRnd s.cycle⟩

/-- `keys[k]` (R11, R32). -/
def State.keyHeld (s : State) (k : Nibble) : Bool := s.input.keys.getLsbD k.toNat

/-- `rnd` (R11, R33). -/
def State.rnd (s : State) : Byte := s.input.rnd

/-! The end of a cycle (40_cycle.md). -/

/-- One tick of a timer: down by one unless zero (R125). -/
def tickTimer (t : Byte) : Byte := if t = 0 then 0 else t - 1

/-- `tick()`: both timers (R125). -/
def State.tick (s : State) : State := { s with dt := tickTimer s.dt, st := tickTimer s.st }

/-- `DIRTY <- d` (R126). -/
def State.setDirty (s : State) (d : Bool) : State := { s with dirty := d }

/-- The input of this cycle is used up (log entry 1). -/
def State.nextInput (s : State) : State := { s with inputs := s.inputs.tail, cycle := s.cycle + 1 }

/-- The end of a cycle that did not fault: tick, then `DIRTY` (R120, R125, R126). -/
def State.endCycle (s : State) (drew : Bool) : State := ((s.tick).setDirty drew).nextInput

end Sys2Proof.Machine
end

