-- ==== Sys2Proof/Machine/Operands.lean ====
section
/-! DEFINITION. The operand forms: addresses, data ranges through `I`, key indices, and the pixels of a sprite. -/

namespace Sys2Proof.Machine

/-- `zext_16(NNN)`: an address immediate as a jump target or an index value (R93). -/
def addrWord (nnn : Addr12) : Word := nnn.setWidth 16

/-- `zext_16(b)`: a byte as an addend of `I` or `pc` (R93). -/
def byteWord (b : Byte) : Word := b.setWidth 16

/-- The address of the font glyph for the value `b`: `FONT_BASE + 5 * b`, no masking (R183). -/
def glyphAddr (b : Byte) : Word := BitVec.ofNat 16 (Config.fontBase + Config.glyphLen * b.toNat)

/-- The fault of an access to the `m` bytes at `I, I+1, ...`: the range passes `0xFFF`, in natural numbers. No access, no
check (R64, R180). -/
def State.dataFault (s : State) (m : Nat) : Option Fault :=
  if 0 < m ∧ Config.memSize ≤ s.i.toNat + m - 1 then some (.dataAddressOutOfBounds s.i) else none

/-- The fault of a key index above 15 (R220). -/
def keyFault (k : Byte) : Option Fault := if 15 < k.toNat then some (.keyIndexOutOfRange k) else none

/-- A key index as a key number; only used for an index up to 15 (R220). -/
def keyNumber (k : Byte) : Nibble := k.setWidth 4

/-- The least key held, scanning upwards (R222). -/
def State.leastHeld (s : State) : Option Nibble :=
  ((List.range Config.numKeys).map (BitVec.ofNat 4)).find? fun k => s.keyHeld k

/-- The decimal digits of a byte: hundreds, tens, ones (R184). -/
def bcdDigits (b : Byte) : List Byte :=
  [BitVec.ofNat 8 (b.toNat / 100), BitVec.ofNat 8 (b.toNat / 10 % 10), BitVec.ofNat 8 (b.toNat % 10)]

/-- `FB` at the column `px` and row `py` (R31). -/
def State.pixel (s : State) (px py : Nat) : Bool := (s.fb.getD py 0).getLsbD px

/-- The pixels under the set bits of one sprite byte with its left end at `(x0, py)`, bit 7 leftmost; pixels outside the
screen are left out (R201, R202 (a)). -/
def rowPixels (b : Byte) (x0 py : Nat) : List (Nat × Nat) :=
  ((List.range Config.spriteWidth).filter fun col =>
    b.getLsbD (7 - col) && decide (x0 + col < Config.fbWidth) && decide (py < Config.fbHeight)).map
      fun col => (x0 + col, py)

/-- The pixels of a sprite whose rows are `bs`, its top left at `(x0, y0)`: natural numbers, nothing reduced (R201,
R202 (a)). -/
def spritePixels (x0 y0 : Nat) : List Byte → List (Nat × Nat)
  | [] => []
  | b :: bs => rowPixels b x0 y0 ++ spritePixels x0 (y0 + 1) bs

end Sys2Proof.Machine
end

