-- ==== Sys2Proof/Machine/Flags.lean ====
section
/-! DEFINITION. Every computation of the flag register `VF` (10_state.md rule R21). -/

namespace Sys2Proof.Machine

/-- A flag as a full register value, `0x00` or `0x01` (R21). -/
def flagByte (c : Bool) : Byte := if c then 0x01 else 0x00

/-- The carry of an addition: the sum of the two unsigned operands exceeds 255 (R167). -/
def carryFlag (a b : Byte) : Byte := flagByte (decide (255 < a.toNat + b.toNat))

/-- The flag of `a - b`: set when there is no borrow, `b ≤ a` (R168, R170). -/
def noBorrowFlag (a b : Byte) : Byte := flagByte (decide (b.toNat ≤ a.toNat))

/-- The bit a right shift of `b` moves out: bit 0 (R169). -/
def shiftRightFlag (b : Byte) : Byte := flagByte (b.getLsbD 0)

/-- The bit a left shift of `b` moves out: bit 7 (R171). -/
def shiftLeftFlag (b : Byte) : Byte := flagByte (b.getLsbD 7)

/-- The flag the logical operations leave: always `0x00` (R164 to R166). -/
def logicFlag : Byte := 0x00

/-- The flag of a draw: whether any pixel went from set to unset (R201). -/
def collisionFlag (collided : Bool) : Byte := flagByte collided

end Sys2Proof.Machine
end

