-- ==== Sys2Proof/Machine/Alu.lean ====
section
/-! DEFINITION. The meanings of the register load, arithmetic, logic, shift and random instructions (42_alu.md). Sources
are read from the state the cycle began with, the flag is written last (R123 (a), R160; log entry 14). -/

namespace Sys2Proof.Machine

/-- `LD Vx, byte` (R161). -/
def execLdImm (x : Nibble) (nn : Byte) (s : State) : Host.Outcome State Fault Refusal :=
  .next (s.setReg x nn).advance

/-- `ADD Vx, byte` (R162): modulo 256, no flag. -/
def execAddImm (x : Nibble) (nn : Byte) (s : State) : Host.Outcome State Fault Refusal :=
  .next (s.setReg x (s.reg x + nn)).advance

/-- `LD Vx, Vy` (R163): the copy leaves `VF` alone (90_conflicts.md C1). -/
def execLdReg (x y : Nibble) (s : State) : Host.Outcome State Fault Refusal :=
  .next (s.setReg x (s.reg y)).advance

/-- `OR Vx, Vy` (R164). -/
def execOrReg (x y : Nibble) (s : State) : Host.Outcome State Fault Refusal :=
  .next (s.setRegFlag x (s.reg x ||| s.reg y) logicFlag).advance

/-- `AND Vx, Vy` (R165). -/
def execAndReg (x y : Nibble) (s : State) : Host.Outcome State Fault Refusal :=
  .next (s.setRegFlag x (s.reg x &&& s.reg y) logicFlag).advance

/-- `XOR Vx, Vy` (R166). -/
def execXorReg (x y : Nibble) (s : State) : Host.Outcome State Fault Refusal :=
  .next (s.setRegFlag x (s.reg x ^^^ s.reg y) logicFlag).advance

/-- `ADD Vx, Vy` (R167). -/
def execAddReg (x y : Nibble) (s : State) : Host.Outcome State Fault Refusal :=
  .next (s.setRegFlag x (s.reg x + s.reg y) (carryFlag (s.reg x) (s.reg y))).advance

/-- `SUB Vx, Vy` (R168): `VX - VY`. -/
def execSub (x y : Nibble) (s : State) : Host.Outcome State Fault Refusal :=
  .next (s.setRegFlag x (s.reg x - s.reg y) (noBorrowFlag (s.reg x) (s.reg y))).advance

/-- `SHR Vx, Vy` (R169): `VY` shifted right by one into `VX`. -/
def execShr (x y : Nibble) (s : State) : Host.Outcome State Fault Refusal :=
  .next (s.setRegFlag x (s.reg y >>> 1) (shiftRightFlag (s.reg y))).advance

/-- `SUBN Vx, Vy` (R170): `VY - VX`. -/
def execSubn (x y : Nibble) (s : State) : Host.Outcome State Fault Refusal :=
  .next (s.setRegFlag x (s.reg y - s.reg x) (noBorrowFlag (s.reg y) (s.reg x))).advance

/-- `SHL Vx, Vy` (R171): `VY` shifted left by one into `VX`. -/
def execShl (x y : Nibble) (s : State) : Host.Outcome State Fault Refusal :=
  .next (s.setRegFlag x (s.reg y <<< 1) (shiftLeftFlag (s.reg y))).advance

/-- `RND Vx, byte` (R172): the random byte of this cycle masked with `NN`. -/
def execRnd (x : Nibble) (nn : Byte) (s : State) : Host.Outcome State Fault Refusal :=
  .next (s.setReg x (s.rnd &&& nn)).advance

end Sys2Proof.Machine
end

