-- ==== Sys2Proof/Machine/ControlFlow.lean ====
section
/-! DEFINITION. The meanings of the control transfer instructions (41_control_flow.md). No target is checked when the
transfer executes (R147). -/

namespace Sys2Proof.Machine

/-- `RET` (R140): pop the return address into `pc`; an empty stack is the fault `StackUnderflow`, checked first. -/
def execRet (s : State) : Host.Outcome State Fault Refusal :=
  match s.pop with
  | some (target, t) => .next (t.goto target)
  | none => .next (s.raise (.stackUnderflow (s.npc - 2)))

/-- `JP addr` (R141). -/
def execJp (nnn : Addr12) (s : State) : Host.Outcome State Fault Refusal := .next (s.goto (addrWord nnn))

/-- `CALL addr` (R142): push `npc` and jump; a full stack is the fault `StackOverflow`, checked first. -/
def execCall (nnn : Addr12) (s : State) : Host.Outcome State Fault Refusal :=
  match s.push s.npc with
  | some t => .next (t.goto (addrWord nnn))
  | none => .next (s.raise (.stackOverflow (s.npc - 2)))

/-- `SE Vx, byte` (R143). -/
def execSe (x : Nibble) (nn : Byte) (s : State) : Host.Outcome State Fault Refusal :=
  .next (s.skipIf (s.reg x == nn))

/-- `SNE Vx, byte` (R144). -/
def execSne (x : Nibble) (nn : Byte) (s : State) : Host.Outcome State Fault Refusal :=
  .next (s.skipIf (s.reg x != nn))

/-- `SE Vx, Vy` (R145). -/
def execSeReg (x y : Nibble) (s : State) : Host.Outcome State Fault Refusal :=
  .next (s.skipIf (s.reg x == s.reg y))

/-- `SNE Vx, Vy` (R146). -/
def execSneReg (x y : Nibble) (s : State) : Host.Outcome State Fault Refusal :=
  .next (s.skipIf (s.reg x != s.reg y))

/-- `JP V0, addr` (R148): always `V0`; the sum is not reduced to 12 bits. -/
def execJpV0 (nnn : Addr12) (s : State) : Host.Outcome State Fault Refusal :=
  .next (s.goto (addrWord nnn + byteWord (s.reg 0x0)))

end Sys2Proof.Machine
end

