-- ==== Sys2Proof/Machine/Display.lean ====
section
/-! DEFINITION. The meanings of the display instructions (44_display.md): clear, and the sprite XOR blit with its
collision flag. -/

namespace Sys2Proof.Machine

/-- `CLS` (R200): every cell of `FB` 0; `VF` stays. -/
def execCls (s : State) : Host.Outcome State Fault Refusal :=
  .next (s.setFb (Vector.replicate 32 0)).advance

/-- One pixel of the blit on a framebuffer and a collision so far: the pixel is inverted, and if it was set it has
collided (R201). -/
def xorPixel (d : Vector (BitVec 64) 32 × Bool) (p : Nat × Nat) : Vector (BitVec 64) 32 × Bool :=
  (d.1.setIfInBounds p.2 (d.1.getD p.2 0 ^^^ BitVec.twoPow 64 p.1), d.2 || (d.1.getD p.2 0).getLsbD p.1)

/-- The blit of the pixels `ps`: the framebuffer after it, and whether any pixel went from set to unset (R201). -/
def blit (fb : Vector (BitVec 64) 32) (ps : List (Nat × Nat)) : Vector (BitVec 64) 32 × Bool :=
  ps.foldl xorPixel (fb, false)

/-- The pixels a draw of `n` rows inverts: the sprite bytes from `I` on, the top left corner at `(VX, VY)` (R201). -/
def State.drawnPixels (s : State) (x y n : Nibble) : List (Nat × Nat) :=
  spritePixels (s.reg x).toNat (s.reg y).toNat (s.mem.readBytes s.i.toNat n.toNat)

/-- `DRW Vx, Vy, nibble` (R201, R202): both coordinates are read before `VF` is written (R123 (a)). -/
def execDrw (x y n : Nibble) (s : State) : Host.Outcome State Fault Refusal :=
  match s.dataFault n.toNat with
  | some f => .next (s.raise f)
  | none =>
    .next (((s.setFb (blit s.fb (s.drawnPixels x y n)).1).setReg flagReg
      (collisionFlag (blit s.fb (s.drawnPixels x y n)).2)).advance)

end Sys2Proof.Machine
end

