-- ==== Sys2Proof/Machine/IndexMemory.lean ====
section
/-! DEFINITION. The meanings of the index register and memory instructions (43_index_memory.md). The whole byte range is
checked before the first access (R64, R180). -/

namespace Sys2Proof.Machine

/-- `LD I, addr` (R181). -/
def execLdI (nnn : Addr12) (s : State) : Host.Outcome State Fault Refusal :=
  .next (s.setI (addrWord nnn)).advance

/-- `ADD I, Vx` (R182): modulo `2^16`, no flag, no fault. -/
def execAddI (x : Nibble) (s : State) : Host.Outcome State Fault Refusal :=
  .next (s.setI (s.i + byteWord (s.reg x))).advance

/-- `LD F, Vx` (R183): the glyph address of the full 8-bit value. -/
def execLdF (x : Nibble) (s : State) : Host.Outcome State Fault Refusal :=
  .next (s.setI (glyphAddr (s.reg x))).advance

/-- `LD B, Vx` (R184): the three decimal digits at `I, I+1, I+2`; `I` stays. -/
def execLdB (x : Nibble) (s : State) : Host.Outcome State Fault Refusal :=
  match s.dataFault 3 with
  | some f => .next (s.raise f)
  | none => .next (s.setMem (s.mem.writeBytes s.i.toNat (bcdDigits (s.reg x)))).advance

/-- The index register past the last byte of a bulk transfer: `I + X + 1` modulo `2^16` (R185). -/
def bulkNextI (x : Nibble) (s : State) : Word := s.i + BitVec.ofNat 16 (x.toNat + 1)

/-- `LD [I], Vx` (R186): `V0..VX` to `I..I+X`, then `I` moves past them. -/
def execStRegs (x : Nibble) (s : State) : Host.Outcome State Fault Refusal :=
  match s.dataFault (x.toNat + 1) with
  | some f => .next (s.raise f)
  | none => .next ((s.setMem (s.mem.writeBytes s.i.toNat (s.lowRegs x))).setI (bulkNextI x s)).advance

/-- `LD Vx, [I]` (R187): `I..I+X` to `V0..VX`, then `I` moves past them. -/
def execLdRegs (x : Nibble) (s : State) : Host.Outcome State Fault Refusal :=
  match s.dataFault (x.toNat + 1) with
  | some f => .next (s.raise f)
  | none => .next ((s.setRegs (s.mem.readBytes s.i.toNat (x.toNat + 1))).setI (bulkNextI x s)).advance

end Sys2Proof.Machine
end

