-- ==== Sys2Proof/Machine/KeypadTimers.lean ====
section
/-! DEFINITION. The meanings of the keypad and timer instructions and the key-wait state machine
(45_keypad_timers.md). -/

namespace Sys2Proof.Machine

/-- `SKP Vx` (R220): an index above 15 is the fault `KeyIndexOutOfRange`, checked first. -/
def execSkp (x : Nibble) (s : State) : Host.Outcome State Fault Refusal :=
  match keyFault (s.reg x) with
  | some f => .next (s.raise f)
  | none => .next (s.skipIf (s.keyHeld (keyNumber (s.reg x))))

/-- `SKNP Vx` (R221): faults as `SKP`. -/
def execSknp (x : Nibble) (s : State) : Host.Outcome State Fault Refusal :=
  match keyFault (s.reg x) with
  | some f => .next (s.raise f)
  | none => .next (s.skipIf (!s.keyHeld (keyNumber (s.reg x))))

/-- A stall of the key-wait: `pc <- npc - 2`, the instruction's own address (R222, R223 (k)). -/
def State.stall (s : State) : State := s.goto (s.npc - 2)

/-- The key-wait while no key has been seen: the least key held is stored and latched, and either way the cycle
stalls (R222). -/
def State.awaitPress (s : State) (x : Nibble) : State :=
  match s.leastHeld with
  | some k => ((s.setReg x (k.setWidth 8)).setKeyWait .waitingForRelease k).stall
  | none => (s.setKeyWait .waitingForPress s.kwKey).stall

/-- The key-wait once a key has been seen: it completes in the cycle that sees that key released (R222). -/
def State.awaitRelease (s : State) : State :=
  if s.keyHeld s.kwKey then s.stall else (s.setKeyWait .idle s.kwKey).advance

/-- `LD Vx, K` (R222, R223): one cycle of the key-wait. -/
def execLdVxK (x : Nibble) (s : State) : Host.Outcome State Fault Refusal :=
  .next (match s.kws with
    | .idle => s.awaitPress x
    | .waitingForPress => s.awaitPress x
    | .waitingForRelease => s.awaitRelease)

/-- `LD Vx, DT` (R224): the value before this cycle's tick. -/
def execLdVxDt (x : Nibble) (s : State) : Host.Outcome State Fault Refusal := .next (s.setReg x s.dt).advance

/-- `LD ST, Vx` (R225): the tick of the same cycle follows. -/
def execLdStVx (x : Nibble) (s : State) : Host.Outcome State Fault Refusal := .next (s.setSt (s.reg x)).advance

/-- `LD DT, Vx` (R226): the tick of the same cycle follows. -/
def execLdDtVx (x : Nibble) (s : State) : Host.Outcome State Fault Refusal := .next (s.setDt (s.reg x)).advance

end Sys2Proof.Machine
end

