-- ==== Sys2Proof/Machine/Cycle.lean ====
section
/-! DEFINITION. The cycle (40_cycle.md): fetch, decode, execute, and the end of the cycle. -/

namespace Sys2Proof.Machine

/-- `fetch()` (R121): the two bytes at `pc`, big-endian; `pc + 1` beyond memory is the fault `FetchOutOfBounds`. -/
def fetch (s : State) : Except Fault Word :=
  if s.pc.toNat + 1 < Config.memSize then
    .ok (wordOfBytes (s.mem.read s.pc.toNat) (s.mem.read (s.pc.toNat + 1)))
  else .error (.fetchOutOfBounds s.pc)

/-- Fetch and decode (R121, R122): the instruction of this cycle, or the fault that ends it. -/
def fetchInstr (s : State) : Except Fault Instr :=
  match fetch s with
  | .error f => .error f
  | .ok op =>
    match decode op with
    | .ok i => .ok i
    | .error _ => .error (.invalidOpcode op)

/-- The instructions after which `DIRTY` is 1 (R126). -/
def draws : Instr → Bool
  | .cls => true
  | .ret => false
  | .jp _ => false
  | .call _ => false
  | .se _ _ => false
  | .sne _ _ => false
  | .seReg _ _ => false
  | .sneReg _ _ => false
  | .ldImm _ _ => false
  | .addImm _ _ => false
  | .ldReg _ _ => false
  | .orReg _ _ => false
  | .andReg _ _ => false
  | .xorReg _ _ => false
  | .addReg _ _ => false
  | .sub _ _ => false
  | .shr _ _ => false
  | .subn _ _ => false
  | .shl _ _ => false
  | .ldI _ => false
  | .jpV0 _ => false
  | .rnd _ _ => false
  | .drw _ _ _ => true
  | .skp _ => false
  | .sknp _ => false
  | .ldVxDt _ => false
  | .ldVxK _ => false
  | .ldDtVx _ => false
  | .ldStVx _ => false
  | .addI _ => false
  | .ldF _ => false
  | .ldB _ => false
  | .stRegs _ => false
  | .ldRegs _ => false

/-- The end of a cycle whose execute phase answered `o`: a faulting cycle commits nothing but the latch (R127), any other
ticks, updates `DIRTY` and uses up its input (R125, R126). -/
def finish (i : Instr) (o : Host.Outcome State Fault Refusal) : Host.Outcome State Fault Refusal :=
  match o with
  | .next t =>
    .next (match t.fault with
      | some _ => t
      | none => t.endCycle (draws i))
  | .fault r => .fault r
  | .refused r => .refused r

/-- One cycle (R120). A halted core changes nothing (R127, R248). -/
def cycle (s : State) : Host.Outcome State Fault Refusal :=
  match s.fault with
  | some _ => .next s
  | none =>
    match fetchInstr s with
    | .error f => .next (s.raise f)
    | .ok i => finish i (exec i s)

/-- `s` with the word `op` in the two cells the next fetch reads (R63); as it is when there are no such cells (R121). -/
def State.placeWord (s : State) (op : Word) : State :=
  if s.pc.toNat + 1 < Config.memSize then
    s.setMem (s.mem.writeBytes s.pc.toNat [highByte op, lowByte op])
  else s

end Sys2Proof.Machine
end

