-- ==== Sys2Proof/Machine/Step.lean ====
section
/-! DEFINITION. The one step of the machine (40_cycle.md rule R120), and how a word is placed to be the next one
fetched. -/

namespace Sys2Proof.Machine

/-- `step` (R120): one fetch-decode-execute cycle. -/
def step (s : State) : Host.Outcome State Fault Refusal := cycle s

/-- `s` with an instruction of the opcode table, numbered as the table numbers its bits, where the next step fetches. It
stands for the host's program load (R69; log entry 9). -/
def State.withFetchWord (s : State) (nbits w : Nat) : State := s.placeWord (tableWord nbits w)

end Sys2Proof.Machine
end

