-- ==== Sys2Proof/Machine/Ports.lean ====
section
/-! DEFINITION. What the host does and sees at the ports of 60_exceptions.md rule R256: reset, program load, the inputs of
a step, and the outputs, and the order in which the host may call them (R260, R282). -/

namespace Sys2Proof.Machine

/-- The `reset` port (R256, R280): all state of the core at its reset value, no input supplied. The draw number of the
free inputs goes on, so that the inputs after a reset are new ones (log entry 22). -/
def hostReset (s : State) : State := { State.reset with cycle := s.cycle + 1 }

/-- What a load does to the core (R69, R246): the program at `0x200` on, nothing else changed; a program too long for
memory writes nothing and latches `ProgramTooLarge`. Only `load` decides when this may happen. -/
def State.placeProgram (s : State) (bytes : List Byte) : State :=
  if bytes.length ≤ Config.progMax then s.setMem (s.mem.writeBytes Config.progBase bytes)
  else s.raise (.programTooLarge bytes.length)

/-- The machine the host starts to step: reset, then one load (R282). -/
def boot (bytes : List Byte) : State := State.reset.placeProgram bytes

/-- The inputs of the next step supplied by the host: a keypad snapshot and a random byte (R256, R257). -/
def supply (keys : BitVec 16) (rnd : Byte) (s : State) : State := { s with inputs := ⟨keys, rnd⟩ :: s.inputs }

/-- `step(keys, rnd)` as the host calls it (R120). -/
def stepWith (keys : BitVec 16) (rnd : Byte) (s : State) : Host.Outcome State Fault Refusal :=
  step (supply keys rnd s)

/-! The order of the host's operations (R282; log entry 10). It is the host's, no state of the core (R36). -/

/-- How far the host has come since the last `reset`. -/
inductive Session where
  /-- No `reset` yet: no state exists. -/
  | absent
  /-- Reset; neither a `load` nor a `step` since. -/
  | fresh (s : State)
  /-- One `load` since the reset, no `step`. -/
  | loaded (s : State)
  /-- At least one `step` since the reset. -/
  | stepped (s : State)
deriving DecidableEq, Repr

/-- The host calls `reset`: legal at any time (R256, R280). -/
def Session.reset : Session → Session
  | .absent => .fresh State.reset
  | .fresh s => .fresh (hostReset s)
  | .loaded s => .fresh (hostReset s)
  | .stepped s => .fresh (hostReset s)

/-- The host calls `load(bytes)`: it has a meaning between `reset` and the first `step`, and once (R69, R282). -/
def load (bytes : List Byte) : Session → Host.Outcome Session Fault Refusal
  | .absent => .refused .noState
  | .fresh s => .next (.loaded (s.placeProgram bytes))
  | .loaded _ => .refused .loadOutOfOrder
  | .stepped _ => .refused .loadOutOfOrder

/-- The session after a step of the core that answered `o`. -/
def Session.ofStep (o : Host.Outcome State Fault Refusal) : Host.Outcome Session Fault Refusal :=
  match o with
  | .next t => .next (.stepped t)
  | .fault r => .fault r
  | .refused r => .refused r

/-- The host calls `step(keys, rnd)`: with or without a `load` before. After a `load` that reported `ProgramTooLarge` it
changes nothing, the latch being set (R246, R282). -/
def Session.step (keys : BitVec 16) (rnd : Byte) : Session → Host.Outcome Session Fault Refusal
  | .absent => .refused .noState
  | .fresh s => Session.ofStep (stepWith keys rnd s)
  | .loaded s => Session.ofStep (stepWith keys rnd s)
  | .stepped s => Session.ofStep (stepWith keys rnd s)

/-- The output ports (R256), valid between cycles (R259). -/
structure Outputs where
  fb    : Vector (BitVec 64) 32
  dirty : Bool
  st    : Byte
  dt    : Byte
  fault : BitVec 3
deriving DecidableEq, Repr

/-- The 3-bit latch `FAULT`: the code of the latched cause, 0 for none (R30, R240). -/
def faultCode (s : State) : BitVec 3 :=
  match s.fault with
  | some f => f.code
  | none => 0

/-- What the host reads after a cycle (R256, R258, R259). -/
def outputs (s : State) : Outputs := ⟨s.fb, s.dirty, s.st, s.dt, faultCode s⟩

end Sys2Proof.Machine
end

