-- ==== Sys2Proof/Safety.lean ====
section
/-! DEFINITION. The terms the claims are made in: what a cycle may change (frames), which fault a cycle raises, what a
sprite covers, the invariants, and what counts as a safe run. They are written from the rules, not from the meanings. -/

namespace Sys2Proof.Machine

/-- A piece of the state, down to one register, one stack entry, one pixel and one byte of memory (10_state.md R36). -/
inductive Part where
  | reg (r : Nibble)
  | pc
  | i
  | sp
  | entry (k : Fin 16)
  | dt
  | st
  | kws
  | kwKey
  | pixel (px : Fin 64) (py : Fin 32)
  | dirty
  | fault
  | byte (a : Nat)
  | input
deriving DecidableEq, Repr

/-- The piece `p` holds the same in `s` and `t`. -/
def Part.Same (s t : State) : Part → Prop
  | .reg r => t.reg r = s.reg r
  | .pc => t.pc = s.pc
  | .i => t.i = s.i
  | .sp => t.sp = s.sp
  | .entry k => t.stack[k] = s.stack[k]
  | .dt => t.dt = s.dt
  | .st => t.st = s.st
  | .kws => t.kws = s.kws
  | .kwKey => t.kwKey = s.kwKey
  | .pixel px py => t.pixel px.val py.val = s.pixel px.val py.val
  | .dirty => t.dirty = s.dirty
  | .fault => t.fault = s.fault
  | .byte a => t.mem.read a = s.mem.read a
  | .input => t.inputs = s.inputs ∧ t.cycle = s.cycle

/-- The frame: from `s` to `t` every piece outside `P` is unchanged. -/
def ChangesOnly (P : Part → Prop) (s t : State) : Prop := ∀ p, ¬ P p → Part.Same s t p

/-- What an instruction writes when it raises no fault: the "w" entries of the matrix of 10_state.md rule R38, and `pc`,
which every instruction's cycle writes. -/
def writes (i : Instr) (s : State) (p : Part) : Prop :=
  p = .pc ∨
  match i with
  | .cls => ∃ px py, p = .pixel px py
  | .ret => p = .sp
  | .jp _ => False
  | .call _ => p = .sp ∨ ∃ k : Fin 16, k.val = s.sp.val ∧ p = .entry k
  | .se _ _ => False
  | .sne _ _ => False
  | .seReg _ _ => False
  | .sneReg _ _ => False
  | .ldImm x _ => p = .reg x
  | .addImm x _ => p = .reg x
  | .ldReg x _ => p = .reg x
  | .orReg x _ => p = .reg x ∨ p = .reg 0xF
  | .andReg x _ => p = .reg x ∨ p = .reg 0xF
  | .xorReg x _ => p = .reg x ∨ p = .reg 0xF
  | .addReg x _ => p = .reg x ∨ p = .reg 0xF
  | .sub x _ => p = .reg x ∨ p = .reg 0xF
  | .shr x _ => p = .reg x ∨ p = .reg 0xF
  | .subn x _ => p = .reg x ∨ p = .reg 0xF
  | .shl x _ => p = .reg x ∨ p = .reg 0xF
  | .ldI _ => p = .i
  | .jpV0 _ => False
  | .rnd x _ => p = .reg x
  | .drw _ _ _ => p = .reg 0xF ∨ ∃ px py, p = .pixel px py
  | .skp _ => False
  | .sknp _ => False
  | .ldVxDt x => p = .reg x
  | .ldVxK x => p = .reg x ∨ p = .kws ∨ p = .kwKey
  | .ldDtVx _ => p = .dt
  | .ldStVx _ => p = .st
  | .addI _ => p = .i
  | .ldF _ => p = .i
  | .ldB _ => ∃ k < 3, p = .byte (s.i.toNat + k)
  | .stRegs x => p = .i ∨ ∃ k ≤ x.toNat, p = .byte (s.i.toNat + k)
  | .ldRegs x => p = .i ∨ ∃ r : Nibble, r.toNat ≤ x.toNat ∧ p = .reg r

/-- The fault an instruction raises in its execute phase, if any: the table of 60_exceptions.md rule R240, codes 3
to 6. -/
def raises (i : Instr) (s : State) : Option Fault :=
  match i with
  | .ret => if s.sp.val = 0 then some (.stackUnderflow s.pc) else none
  | .call _ => if s.sp.val = 16 then some (.stackOverflow s.pc) else none
  | .drw _ _ n =>
    if n ≠ 0 ∧ 0xFFF < s.i.toNat + (n.toNat - 1) then some (.dataAddressOutOfBounds s.i) else none
  | .ldB _ => if 0xFFF < s.i.toNat + 2 then some (.dataAddressOutOfBounds s.i) else none
  | .stRegs x => if 0xFFF < s.i.toNat + x.toNat then some (.dataAddressOutOfBounds s.i) else none
  | .ldRegs x => if 0xFFF < s.i.toNat + x.toNat then some (.dataAddressOutOfBounds s.i) else none
  | .skp x => if 15 < (s.reg x).toNat then some (.keyIndexOutOfRange (s.reg x)) else none
  | .sknp x => if 15 < (s.reg x).toNat then some (.keyIndexOutOfRange (s.reg x)) else none
  | .cls => none
  | .jp _ => none
  | .se _ _ => none
  | .sne _ _ => none
  | .seReg _ _ => none
  | .sneReg _ _ => none
  | .ldImm _ _ => none
  | .addImm _ _ => none
  | .ldReg _ _ => none
  | .orReg _ _ => none
  | .andReg _ _ => none
  | .xorReg _ _ => none
  | .addReg _ _ => none
  | .sub _ _ => none
  | .shr _ _ => none
  | .subn _ _ => none
  | .shl _ _ => none
  | .ldI _ => none
  | .jpV0 _ => none
  | .rnd _ _ => none
  | .ldVxDt _ => none
  | .ldVxK _ => none
  | .ldDtVx _ => none
  | .ldStVx _ => none
  | .addI _ => none
  | .ldF _ => none

/-- The word at `pc`, the byte at the lower address in the high half (20_memory.md R63). -/
def wordAtPc (s : State) : Word :=
  BitVec.ofNat 16 ((s.mem.read s.pc.toNat).toNat * 256 + (s.mem.read (s.pc.toNat + 1)).toNat)

/-- The instruction `i` is the one this cycle executes: its two bytes are in memory and decode to it (R121, R122). -/
def AtPc (s : State) (i : Instr) : Prop := s.pc.toNat + 1 < 4096 ∧ decode (wordAtPc s) = .ok i

/-- The fault the next cycle of a running core raises, if any, in the order fetch, decode, execute
(60_exceptions.md R240, R247). -/
def stepRaises (s : State) : Option Fault :=
  if 4096 ≤ s.pc.toNat + 1 then some (.fetchOutOfBounds s.pc)
  else if validWord (wordAtPc s) then
    match decode (wordAtPc s) with
    | .ok i => raises i s
    | .error _ => none
  else some (.invalidOpcode (wordAtPc s))

/-- The core runs: no fault is latched (R248). -/
def Running (s : State) : Prop := s.fault = none

/-- A cycle is safe when it starts in a running core and raises no fault. A run is safe when each of its cycles is; a
halted state is never the normal end of a run (R248, U13). -/
def SafeCycle (s : State) : Prop := Running s ∧ stepRaises s = none

/-- The sprite of a draw covers the pixel `(px, py)` with a set bit: row `py - y0`, column `px - x0`, bit 7 leftmost, in
natural numbers (44_display.md R201). -/
def spriteCovers (s : State) (x y n : Nibble) (px py : Nat) : Bool :=
  decide ((s.reg x).toNat ≤ px) && decide (px < (s.reg x).toNat + 8) &&
  decide ((s.reg y).toNat ≤ py) && decide (py < (s.reg y).toNat + n.toNat) &&
  (s.mem.read (s.i.toNat + (py - (s.reg y).toNat))).getLsbD (7 - (px - (s.reg x).toNat))

/-- Invariant: memory is in its canonical form. -/
def MemoryCanonical (s : State) : Prop := s.mem.wf = true

/-- Invariant: while the key-wait latch is not idle, the next instruction is the key-wait it belongs to, and once a key
has been seen its register holds that key (45_keypad_timers.md R223 (f), (j)). -/
def KeyWaitCoherent (s : State) : Prop :=
  s.kws ≠ .idle →
    ∃ x, AtPc s (.ldVxK x) ∧ (s.kws = .waitingForRelease → (s.reg x).toNat = s.kwKey.toNat)

/-- Invariant: `pc` and the return addresses stay in the ranges of 10_state.md rule R23 and 41_control_flow.md rule
R140. -/
def AddressesBounded (s : State) : Prop :=
  s.pc.toNat ≤ 0x10FE ∧ ∀ k : Fin 16, s.stack[k].toNat ≤ 0x1000

end Sys2Proof.Machine
end

