-- ==== Sys2Proof/Certificates/Slice0/Obligations.lean ====
section
/-! DEFINITION. The statements for the provers. Each says what the spec's rules say an instruction, a cycle or the machine
does; a statement about what an instruction writes also says what it leaves alone, by `ChangesOnly`. -/

open Sys2Proof Sys2Proof.Machine

/-- For every address and every state, exec of JP answers a next state in which pc is NNN; every other piece of the
state is unchanged. (R141) -/
def Obligations.JumpGoesToTarget : Prop :=
  ∀ (nnn : Addr12) (s : State), ∃ t, exec (.jp nnn) s = .next t ∧
    t.pc.toNat = nnn.toNat ∧ ChangesOnly (fun p => p = .pc) s t

/-- With fewer than 16 entries in use, exec of CALL answers a next state in which the entry at SP holds pc + 2, SP
is one higher and pc is NNN; nothing else changes. (41_control_flow.md section of CALL, 10_state.md section 4) -/
def Obligations.CallPushesReturnAddress : Prop :=
  ∀ (nnn : Addr12) (s : State), s.sp.val < 16 → ∃ t, exec (.call nnn) s = .next t ∧
    t.stack[s.sp.val]? = some (s.pc + 2) ∧ t.sp.val = s.sp.val + 1 ∧ t.pc.toNat = nnn.toNat ∧
    ChangesOnly (fun p => p = .pc ∨ p = .sp ∨ ∃ k : Fin 16, k.val = s.sp.val ∧ p = .entry k) s t

/-- With at least one entry in use, exec of RET answers a next state in which SP is one lower and pc is the entry
below the old SP; nothing else changes, the entry included. (41_control_flow.md section of RET, 10_state.md
section 4) -/
def Obligations.RetPopsReturnAddress : Prop :=
  ∀ s : State, 0 < s.sp.val → ∃ t, exec .ret s = .next t ∧
    t.sp.val + 1 = s.sp.val ∧ s.stack[s.sp.val - 1]? = some t.pc ∧
    ChangesOnly (fun p => p = .pc ∨ p = .sp) s t

/-- Whatever else a subroutine did to the state, a RET executed on the stack and SP that a CALL left answers a next
state with pc the address after the CALL and SP as before the CALL. (41_control_flow.md sections of RET and
CALL) -/
def Obligations.CallThenRetReturns : Prop :=
  ∀ (nnn : Addr12) (s : State), s.sp.val < 16 → ∃ t, exec (.call nnn) s = .next t ∧
    ∀ u : State, u.stack = t.stack → u.sp = t.sp → ∃ w, exec .ret u = .next w ∧ w.pc = s.pc + 2 ∧ w.sp = s.sp

/-- With 16 entries in use exec of CALL, and with none exec of RET, answers the state it began with but for the
fault latch, which holds the cause with the address of the instruction. That the fault is a latched next state
is the choice of the spec (decision D10; log entries 3 and 4). (41_control_flow.md sections of RET and CALL,
60_exceptions.md section 1, 92_eei_decisions.md D10) -/
def Obligations.StackFaultsLatch : Prop :=
  (∀ (nnn : Addr12) (s : State), s.sp.val = 16 →
      exec (.call nnn) s = .next { s with fault := some (.stackOverflow s.pc) }) ∧
    ∀ s : State, s.sp.val = 0 → exec .ret s = .next { s with fault := some (.stackUnderflow s.pc) }

/-- For every register, immediate and state, exec of SE answers a next state with pc + 4 if VX = NN and pc + 2
otherwise, exec of SNE the other way round; nothing else changes. (R143, R144) -/
def Obligations.SkipOnImmediate : Prop :=
  ∀ (x : Nibble) (nn : Byte) (s : State),
    (∃ t, exec (.se x nn) s = .next t ∧ t.pc = (if s.reg x = nn then s.pc + 4 else s.pc + 2) ∧
      ChangesOnly (fun p => p = .pc) s t) ∧
    ∃ t, exec (.sne x nn) s = .next t ∧ t.pc = (if s.reg x = nn then s.pc + 2 else s.pc + 4) ∧
      ChangesOnly (fun p => p = .pc) s t

/-- For all registers and states, exec of SE_REG answers a next state with pc + 4 if VX = VY and pc + 2 otherwise,
exec of SNE_REG the other way round; nothing else changes. (R145, R146) -/
def Obligations.SkipOnRegisters : Prop :=
  ∀ (x y : Nibble) (s : State),
    (∃ t, exec (.seReg x y) s = .next t ∧ t.pc = (if s.reg x = s.reg y then s.pc + 4 else s.pc + 2) ∧
      ChangesOnly (fun p => p = .pc) s t) ∧
    ∃ t, exec (.sneReg x y) s = .next t ∧ t.pc = (if s.reg x = s.reg y then s.pc + 2 else s.pc + 4) ∧
      ChangesOnly (fun p => p = .pc) s t

/-- For every address and state, exec of JP_V0 answers a next state in which pc is NNN + V0 as natural numbers, not
reduced to 12 bits; nothing else changes. That the sum is not reduced is a choice of the spec (decision D26; log
entry 16). (41_control_flow.md section of JP V0, addr, 92_eei_decisions.md D26) -/
def Obligations.JumpWithOffset : Prop :=
  ∀ (nnn : Addr12) (s : State), ∃ t, exec (.jpV0 nnn) s = .next t ∧
    t.pc.toNat = nnn.toNat + (s.reg 0x0).toNat ∧ ChangesOnly (fun p => p = .pc) s t

/-- For every register, immediate and state, exec of LD_IMM answers a next state with VX = NN and pc + 2; nothing
else changes. (R161) -/
def Obligations.LoadImmediate : Prop :=
  ∀ (x : Nibble) (nn : Byte) (s : State), ∃ t, exec (.ldImm x nn) s = .next t ∧
    t.reg x = nn ∧ t.pc = s.pc + 2 ∧ ChangesOnly (fun p => p = .pc ∨ p = .reg x) s t

/-- For every register, immediate and state, exec of ADD_IMM answers a next state with VX = (VX + NN) mod 256 and pc
+ 2; nothing else changes, VF included unless it is VX. (R162) -/
def Obligations.AddImmediate : Prop :=
  ∀ (x : Nibble) (nn : Byte) (s : State), ∃ t, exec (.addImm x nn) s = .next t ∧
    (t.reg x).toNat = ((s.reg x).toNat + nn.toNat) % 256 ∧ t.pc = s.pc + 2 ∧
    ChangesOnly (fun p => p = .pc ∨ p = .reg x) s t

/-- For all registers and states, exec of LD_REG answers a next state with VX = VY and pc + 2; nothing else changes.
That VF is not cleared is the reading of the spec of a contradiction in its source (90_conflicts.md C1, decision
D5; log entry 14). (42_alu.md section of LD Vx, Vy, 90_conflicts.md C1, 92_eei_decisions.md D5) -/
def Obligations.CopyRegister : Prop :=
  ∀ (x y : Nibble) (s : State), ∃ t, exec (.ldReg x y) s = .next t ∧
    t.reg x = s.reg y ∧ t.pc = s.pc + 2 ∧ ChangesOnly (fun p => p = .pc ∨ p = .reg x) s t

/-- For all registers and states, exec of OR, AND and XOR answers a next state with VF = 0 and, when X is not F, VX
the bitwise result of the old VX and VY; pc + 2; nothing else changes. (R164, R165, R166) -/
def Obligations.LogicClearsFlag : Prop :=
  ∀ (x y : Nibble) (s : State),
    (∃ t, exec (.orReg x y) s = .next t ∧ t.reg 0xF = 0 ∧ (x ≠ 0xF → t.reg x = s.reg x ||| s.reg y) ∧
      t.pc = s.pc + 2 ∧ ChangesOnly (fun p => p = .pc ∨ p = .reg x ∨ p = .reg 0xF) s t) ∧
    (∃ t, exec (.andReg x y) s = .next t ∧ t.reg 0xF = 0 ∧ (x ≠ 0xF → t.reg x = s.reg x &&& s.reg y) ∧
      t.pc = s.pc + 2 ∧ ChangesOnly (fun p => p = .pc ∨ p = .reg x ∨ p = .reg 0xF) s t) ∧
    ∃ t, exec (.xorReg x y) s = .next t ∧ t.reg 0xF = 0 ∧ (x ≠ 0xF → t.reg x = s.reg x ^^^ s.reg y) ∧
      t.pc = s.pc + 2 ∧ ChangesOnly (fun p => p = .pc ∨ p = .reg x ∨ p = .reg 0xF) s t

/-- For all registers and states, exec of ADD_REG answers a next state with VF = 1 if the sum of the old VX and VY
exceeds 255 and 0 otherwise, and, when X is not F, VX the sum mod 256; pc + 2; nothing else changes. (R167) -/
def Obligations.AddSetsCarry : Prop :=
  ∀ (x y : Nibble) (s : State), ∃ t, exec (.addReg x y) s = .next t ∧
    (t.reg 0xF).toNat = (if 255 < (s.reg x).toNat + (s.reg y).toNat then 1 else 0) ∧
    (x ≠ 0xF → (t.reg x).toNat = ((s.reg x).toNat + (s.reg y).toNat) % 256) ∧
    t.pc = s.pc + 2 ∧ ChangesOnly (fun p => p = .pc ∨ p = .reg x ∨ p = .reg 0xF) s t

/-- For all registers and states, exec of SUB answers a next state with VF = 1 if VY ≤ VX and 0 otherwise, and, when
X is not F, VX = (VX - VY) mod 256; pc + 2; nothing else changes. (R168) -/
def Obligations.SubSetsNoBorrow : Prop :=
  ∀ (x y : Nibble) (s : State), ∃ t, exec (.sub x y) s = .next t ∧
    (t.reg 0xF).toNat = (if (s.reg y).toNat ≤ (s.reg x).toNat then 1 else 0) ∧
    (x ≠ 0xF → (t.reg x).toNat = ((s.reg x).toNat + 256 - (s.reg y).toNat) % 256) ∧
    t.pc = s.pc + 2 ∧ ChangesOnly (fun p => p = .pc ∨ p = .reg x ∨ p = .reg 0xF) s t

/-- For all registers and states, exec of SUBN answers a next state with VF = 1 if VX ≤ VY and 0 otherwise, and,
when X is not F, VX = (VY - VX) mod 256; pc + 2; nothing else changes. The instruction and its flag order are
choices of the spec (decisions D3 and D6; log entries 12 and 14). (42_alu.md section of SUBN,
92_eei_decisions.md D3, 92_eei_decisions.md D6) -/
def Obligations.ReverseSubSetsNoBorrow : Prop :=
  ∀ (x y : Nibble) (s : State), ∃ t, exec (.subn x y) s = .next t ∧
    (t.reg 0xF).toNat = (if (s.reg x).toNat ≤ (s.reg y).toNat then 1 else 0) ∧
    (x ≠ 0xF → (t.reg x).toNat = ((s.reg y).toNat + 256 - (s.reg x).toNat) % 256) ∧
    t.pc = s.pc + 2 ∧ ChangesOnly (fun p => p = .pc ∨ p = .reg x ∨ p = .reg 0xF) s t

/-- For all registers and states, exec of SHR answers a next state with VF = VY mod 2 and, when X is not F, VX = VY
div 2; exec of SHL with VF = VY div 128 and VX = (2 * VY) mod 256; pc + 2; nothing else changes. That the flag
stands when X is F is a choice of the spec (decision D6; log entry 14). (42_alu.md sections of SHR and SHL,
92_eei_decisions.md D6) -/
def Obligations.ShiftsTakeVy : Prop :=
  ∀ (x y : Nibble) (s : State),
    (∃ t, exec (.shr x y) s = .next t ∧ (t.reg 0xF).toNat = (s.reg y).toNat % 2 ∧
      (x ≠ 0xF → (t.reg x).toNat = (s.reg y).toNat / 2) ∧ t.pc = s.pc + 2 ∧
      ChangesOnly (fun p => p = .pc ∨ p = .reg x ∨ p = .reg 0xF) s t) ∧
    ∃ t, exec (.shl x y) s = .next t ∧ (t.reg 0xF).toNat = (s.reg y).toNat / 128 ∧
      (x ≠ 0xF → (t.reg x).toNat = (s.reg y).toNat * 2 % 256) ∧ t.pc = s.pc + 2 ∧
      ChangesOnly (fun p => p = .pc ∨ p = .reg x ∨ p = .reg 0xF) s t

/-- For every keypad snapshot and every random byte the host supplies, exec of RND answers a next state with VX =
rnd AND NN and pc + 2; nothing else changes. That the byte is an input of the step is a choice of the spec
(decision D14); that the input is held in the state is the choice of the model (log entry 1). (42_alu.md section
of RND, 10_state.md section 5, 92_eei_decisions.md D14) -/
def Obligations.RandomIsMasked : Prop :=
  ∀ (x : Nibble) (nn : Byte) (keys : BitVec 16) (r : Byte) (s : State),
    ∃ t, exec (.rnd x nn) (supply keys r s) = .next t ∧ t.reg x = r &&& nn ∧ t.pc = s.pc + 2 ∧
      ChangesOnly (fun p => p = .pc ∨ p = .reg x) (supply keys r s) t

/-- For every address and state, exec of LD_I answers a next state with I = NNN (bits 15 to 12 zero) and pc + 2;
nothing else changes. (R181) -/
def Obligations.LoadIndex : Prop :=
  ∀ (nnn : Addr12) (s : State), ∃ t, exec (.ldI nnn) s = .next t ∧
    t.i.toNat = nnn.toNat ∧ t.pc = s.pc + 2 ∧ ChangesOnly (fun p => p = .pc ∨ p = .i) s t

/-- For every register and state, exec of ADD_I answers a next state with I = (I + VX) mod 65536 and pc + 2; nothing
else changes, VF included. The width of the wrap and the missing flag are choices of the spec (decision D12; log
entry 16). (43_index_memory.md section of ADD I, Vx, 92_eei_decisions.md D12) -/
def Obligations.AddToIndexWraps : Prop :=
  ∀ (x : Nibble) (s : State), ∃ t, exec (.addI x) s = .next t ∧
    t.i.toNat = (s.i.toNat + (s.reg x).toNat) % 65536 ∧ t.pc = s.pc + 2 ∧
    ChangesOnly (fun p => p = .pc ∨ p = .i) s t

/-- For every register and state, exec of LD_F answers a next state with I = 5 * VX and pc + 2; nothing else
changes. The instruction and its formula above 15 are choices of the spec (decisions D3 and D16; log entries 12
and 19). (43_index_memory.md section of LD F, Vx, 92_eei_decisions.md D3, 92_eei_decisions.md D16) -/
def Obligations.FontAddress : Prop :=
  ∀ (x : Nibble) (s : State), ∃ t, exec (.ldF x) s = .next t ∧
    t.i.toNat = 5 * (s.reg x).toNat ∧ t.pc = s.pc + 2 ∧ ChangesOnly (fun p => p = .pc ∨ p = .i) s t

/-- With I + 2 inside memory, exec of LD_B answers a next state in which the bytes at I, I+1, I+2 are VX div 100, VX
div 10 mod 10 and VX mod 10, and pc + 2; nothing else changes, I and every other byte included.
(43_index_memory.md section of LD B, Vx) -/
def Obligations.BcdStoresDigits : Prop :=
  ∀ (x : Nibble) (s : State), s.i.toNat + 2 ≤ 0xFFF → ∃ t, exec (.ldB x) s = .next t ∧
    (t.mem.read s.i.toNat).toNat = (s.reg x).toNat / 100 ∧
    (t.mem.read (s.i.toNat + 1)).toNat = (s.reg x).toNat / 10 % 10 ∧
    (t.mem.read (s.i.toNat + 2)).toNat = (s.reg x).toNat % 10 ∧ t.pc = s.pc + 2 ∧
    ChangesOnly (fun p => p = .pc ∨ ∃ k < 3, p = .byte (s.i.toNat + k)) s t

/-- With I + X inside memory, exec of ST_REGS answers a next state in which the byte at I + k is Vk for every k up
to X, I is (I + X + 1) mod 65536 and pc + 2; nothing else changes, the registers and every other byte included.
(43_index_memory.md sections common to the bulk transfers and of LD [I], Vx) -/
def Obligations.BulkStoreWritesRegisters : Prop :=
  ∀ (x : Nibble) (s : State), s.i.toNat + x.toNat ≤ 0xFFF → ∃ t, exec (.stRegs x) s = .next t ∧
    (∀ r : Nibble, r.toNat ≤ x.toNat → t.mem.read (s.i.toNat + r.toNat) = s.reg r) ∧
    t.i.toNat = (s.i.toNat + x.toNat + 1) % 65536 ∧ t.pc = s.pc + 2 ∧
    ChangesOnly (fun p => p = .pc ∨ p = .i ∨ ∃ k ≤ x.toNat, p = .byte (s.i.toNat + k)) s t

/-- With I + X inside memory, exec of LD_REGS answers a next state in which Vk is the byte at I + k for every k up
to X, I is (I + X + 1) mod 65536 and pc + 2; nothing else changes, the registers above VX and all of memory
included. (43_index_memory.md sections common to the bulk transfers and of LD Vx, [I]) -/
def Obligations.BulkLoadReadsRegisters : Prop :=
  ∀ (x : Nibble) (s : State), s.i.toNat + x.toNat ≤ 0xFFF → ∃ t, exec (.ldRegs x) s = .next t ∧
    (∀ r : Nibble, r.toNat ≤ x.toNat → t.reg r = s.mem.read (s.i.toNat + r.toNat)) ∧
    t.i.toNat = (s.i.toNat + x.toNat + 1) % 65536 ∧ t.pc = s.pc + 2 ∧
    ChangesOnly (fun p => p = .pc ∨ p = .i ∨ ∃ r : Nibble, r.toNat ≤ x.toNat ∧ p = .reg r) s t

/-- After a bulk store of V0..VX at I, a bulk load in any state that has the stored memory and the old I answers a
next state in which V0..VX are those the store began with. (43_index_memory.md section common to the bulk
transfers, 95_test_vectors.md E7) -/
def Obligations.BulkRoundTrip : Prop :=
  ∀ (x : Nibble) (s : State), s.i.toNat + x.toNat ≤ 0xFFF → ∃ t, exec (.stRegs x) s = .next t ∧
    ∀ u : State, u.mem = t.mem → u.i = s.i →
      ∃ w, exec (.ldRegs x) u = .next w ∧ ∀ r : Nibble, r.toNat ≤ x.toNat → w.reg r = s.reg r

/-- When the byte range of LD_B, ST_REGS, LD_REGS or DRW (with N > 0) passes 0xFFF as natural numbers, exec answers
the state it began with but for the fault latch, which holds DataAddressOutOfBounds with I. That the access is a
fault, and that it is latched, are choices of the spec (decisions D8 and D10; log entries 3 and 17).
(20_memory.md section 3, 92_eei_decisions.md D8, 92_eei_decisions.md D10) -/
def Obligations.DataRangeFaultLatches : Prop :=
  (∀ (x : Nibble) (s : State), 0xFFF < s.i.toNat + 2 →
      exec (.ldB x) s = .next { s with fault := some (.dataAddressOutOfBounds s.i) }) ∧
    (∀ (x : Nibble) (s : State), 0xFFF < s.i.toNat + x.toNat →
      exec (.stRegs x) s = .next { s with fault := some (.dataAddressOutOfBounds s.i) } ∧
      exec (.ldRegs x) s = .next { s with fault := some (.dataAddressOutOfBounds s.i) }) ∧
    ∀ (x y n : Nibble) (s : State), 0 < n.toNat → 0xFFF < s.i.toNat + n.toNat - 1 →
      exec (.drw x y n) s = .next { s with fault := some (.dataAddressOutOfBounds s.i) }

/-- When ST_REGS with X at least 1 stores at the address of the next instruction, exec answers a next state whose
next instruction word is V0 in the high byte and V1 in the low byte. (20_memory.md section 5,
70_reset_and_hazards.md section 3) -/
def Obligations.StoreSeenByNextFetch : Prop :=
  ∀ (x : Nibble) (s : State), 1 ≤ x.toNat → s.i = s.pc + 2 → s.i.toNat + x.toNat ≤ 0xFFF →
    ∃ t, exec (.stRegs x) s = .next t ∧
      (wordAtPc t).toNat = (s.reg 0x0).toNat * 256 + (s.reg 0x1).toNat

/-- For every state, exec of CLS answers a next state in which all 64 x 32 pixels are 0 and pc is pc + 2; nothing
else changes, VF included; and a cycle of a running core that executes CLS ends with DIRTY = 1. (R200) -/
def Obligations.ClearScreen : Prop :=
  ∀ s : State,
    (∃ t, exec .cls s = .next t ∧ (∀ px < 64, ∀ py < 32, t.pixel px py = false) ∧ t.pc = s.pc + 2 ∧
      ChangesOnly (fun p => p = .pc ∨ ∃ px py, p = .pixel px py) s t) ∧
    (Running s → AtPc s .cls → ∃ t, step s = .next t ∧ t.dirty = true)

/-- With its N sprite bytes inside memory, exec of DRW answers a next state in which each of the 64 x 32 pixels is
inverted exactly when the sprite at (VX, VY) covers it with a set bit, VF is 1 if some covered pixel was set and
0 otherwise, and pc + 2; nothing else changes, I and memory included. That the coordinates are read before VF is
written and that the origin is not reduced are choices of the spec (decisions D7 and D13; log entries 14 and
18). (44_display.md sections of DRW and of its corner cases, 92_eei_decisions.md D7, 92_eei_decisions.md D13) -/
def Obligations.DrawXorsSprite : Prop :=
  ∀ (x y n : Nibble) (s : State), (n = 0 ∨ s.i.toNat + n.toNat - 1 ≤ 0xFFF) → ∃ t, exec (.drw x y n) s = .next t ∧
    (∀ px < 64, ∀ py < 32, t.pixel px py = (s.pixel px py ^^ spriteCovers s x y n px py)) ∧
    ((∃ px < 64, ∃ py < 32, spriteCovers s x y n px py = true ∧ s.pixel px py = true) → t.reg 0xF = 1) ∧
    ((¬ ∃ px < 64, ∃ py < 32, spriteCovers s x y n px py = true ∧ s.pixel px py = true) → t.reg 0xF = 0) ∧
    t.pc = s.pc + 2 ∧ ChangesOnly (fun p => p = .pc ∨ p = .reg 0xF ∨ ∃ px py, p = .pixel px py) s t

/-- After a DRW with its sprite bytes inside memory, the same DRW on the drawn framebuffer with the registers of the
first answers a next state whose pixels are those before the first draw, and whose VF is 1 exactly when some
pixel the sprite covers was clear before the first draw, 0 otherwise. (44_display.md section on the XOR blit,
95_test_vectors.md E4) -/
def Obligations.DrawTwiceRestores : Prop :=
  ∀ (x y n : Nibble) (s : State), (n = 0 ∨ s.i.toNat + n.toNat - 1 ≤ 0xFFF) → ∃ t, exec (.drw x y n) s = .next t ∧
    ∃ u, exec (.drw x y n) { t with v := s.v } = .next u ∧
      (∀ px < 64, ∀ py < 32, u.pixel px py = s.pixel px py) ∧
      (u.reg 0xF = 1 ↔ ∃ px < 64, ∃ py < 32, spriteCovers s x y n px py = true ∧ s.pixel px py = false) ∧
      (u.reg 0xF = 0 ∨ u.reg 0xF = 1)

/-- When VX is 64 or more or VY is 32 or more, exec of DRW with its sprite bytes inside memory answers a next state
in which no pixel is changed and VF is 0; only pc and VF change. That the origin is not wrapped is a choice of
the spec (decision D13; log entry 18). (44_display.md section on the corner cases of DRW, 92_eei_decisions.md
D13) -/
def Obligations.DrawOffScreenIsClipped : Prop :=
  ∀ (x y n : Nibble) (s : State), (64 ≤ (s.reg x).toNat ∨ 32 ≤ (s.reg y).toNat) →
    (n = 0 ∨ s.i.toNat + n.toNat - 1 ≤ 0xFFF) → ∃ t, exec (.drw x y n) s = .next t ∧ t.reg 0xF = 0 ∧
      t.pc = s.pc + 2 ∧ ChangesOnly (fun p => p = .pc ∨ p = .reg 0xF) s t

/-- For every keypad snapshot the host supplies and VX up to 15, exec of SKP answers a next state with pc + 4 if key
VX is held and pc + 2 otherwise, exec of SKNP the other way round; nothing else changes, the key-wait latch
included. (45_keypad_timers.md section 1) -/
def Obligations.SkipOnKey : Prop :=
  ∀ (x : Nibble) (keys : BitVec 16) (r : Byte) (s : State), (s.reg x).toNat ≤ 15 →
    (∃ t, exec (.skp x) (supply keys r s) = .next t ∧
      t.pc = (if keys.getLsbD (s.reg x).toNat then s.pc + 4 else s.pc + 2) ∧
      ChangesOnly (fun p => p = .pc) (supply keys r s) t) ∧
    ∃ t, exec (.sknp x) (supply keys r s) = .next t ∧
      t.pc = (if keys.getLsbD (s.reg x).toNat then s.pc + 2 else s.pc + 4) ∧
      ChangesOnly (fun p => p = .pc) (supply keys r s) t

/-- When VX is above 15, exec of SKP and of SKNP answers the state it began with but for the fault latch, which
holds KeyIndexOutOfRange with VX. That it is a fault, and that it is latched, are choices of the spec (decisions
D9 and D10; log entries 3 and 17). (45_keypad_timers.md section 1, 92_eei_decisions.md D9, 92_eei_decisions.md
D10) -/
def Obligations.KeyIndexFaultLatches : Prop :=
  ∀ (x : Nibble) (s : State), 15 < (s.reg x).toNat →
    exec (.skp x) s = .next { s with fault := some (.keyIndexOutOfRange (s.reg x)) } ∧
    exec (.sknp x) s = .next { s with fault := some (.keyIndexOutOfRange (s.reg x)) }

/-- For every register and state, exec of LD_VX_K answers a next state. While KWS is not WaitingForRelease: if k is
the least key held then VX and KW_KEY are k, KWS is WaitingForRelease and pc stays; if none is held KWS is
WaitingForPress and pc stays. While it is WaitingForRelease: if KW_KEY is still held nothing changes; otherwise
KWS is Idle and pc moves on by 2. Nothing else changes. The representation of the wait and the step from Idle on
a press are choices of the spec (decision D17; log entry 20). (45_keypad_timers.md section 2, 90_conflicts.md
C4, 92_eei_decisions.md D17) -/
def Obligations.KeyWaitCycle : Prop :=
  ∀ (x : Nibble) (s : State), ∃ t, exec (.ldVxK x) s = .next t ∧
    if s.kws = .waitingForRelease then
      if s.input.keys.getLsbD s.kwKey.toNat = true then ChangesOnly (fun _ => False) s t
      else t.kws = .idle ∧ t.pc = s.pc + 2 ∧ ChangesOnly (fun p => p = .pc ∨ p = .kws) s t
    else
      (∀ k < 16, s.input.keys.getLsbD k = true → (∀ j < k, s.input.keys.getLsbD j = false) →
        (t.reg x).toNat = k ∧ t.kwKey.toNat = k ∧ t.kws = .waitingForRelease ∧
        ChangesOnly (fun p => p = .reg x ∨ p = .kws ∨ p = .kwKey) s t) ∧
      ((∀ k < 16, s.input.keys.getLsbD k = false) →
        t.kws = .waitingForPress ∧ ChangesOnly (fun p => p = .kws) s t)

/-- For every register and state, exec of LD_VX_DT answers a next state with VX = DT and pc + 2, nothing else
changed; and a cycle of a running core that executes it ends with VX the old DT and DT one lower, or 0 if it was
0. (R224) -/
def Obligations.ReadDelayTimer : Prop :=
  ∀ (x : Nibble) (s : State),
    (∃ t, exec (.ldVxDt x) s = .next t ∧ t.reg x = s.dt ∧ t.pc = s.pc + 2 ∧
      ChangesOnly (fun p => p = .pc ∨ p = .reg x) s t) ∧
    (Running s → AtPc s (.ldVxDt x) → ∃ t, step s = .next t ∧ t.reg x = s.dt ∧ t.dt.toNat = s.dt.toNat - 1)

/-- For every register and state, exec of LD_DT_VX answers a next state with DT = VX and pc + 2, nothing else
changed; and a cycle of a running core that executes it ends with DT = VX - 1, or 0 when VX is 0.
(45_keypad_timers.md section 3, 40_cycle.md section on the timer tick) -/
def Obligations.WriteDelayTimer : Prop :=
  ∀ (x : Nibble) (s : State),
    (∃ t, exec (.ldDtVx x) s = .next t ∧ t.dt = s.reg x ∧ t.pc = s.pc + 2 ∧
      ChangesOnly (fun p => p = .pc ∨ p = .dt) s t) ∧
    (Running s → AtPc s (.ldDtVx x) → ∃ t, step s = .next t ∧ t.dt.toNat = (s.reg x).toNat - 1)

/-- For every register and state, exec of LD_ST_VX answers a next state with ST = VX and pc + 2, nothing else
changed; and a cycle of a running core that executes it ends with ST = VX - 1, or 0 when VX is 0. The
instruction is a choice of the spec (decision D3; log entry 12). (45_keypad_timers.md section 3,
92_eei_decisions.md D3, 92_eei_decisions.md D29) -/
def Obligations.WriteSoundTimer : Prop :=
  ∀ (x : Nibble) (s : State),
    (∃ t, exec (.ldStVx x) s = .next t ∧ t.st = s.reg x ∧ t.pc = s.pc + 2 ∧
      ChangesOnly (fun p => p = .pc ∨ p = .st) s t) ∧
    (Running s → AtPc s (.ldStVx x) → ∃ t, step s = .next t ∧ t.st.toNat = (s.reg x).toNat - 1)

/-- When the two bytes at pc lie in memory and decode to i, step at a running state is exec of i at that state; a
next state with no fault then has both timers ticked, DIRTY set to whether i draws or clears, and the input of
the cycle used up (the model holds it, log entry 1); a next state with the latch set is the result as it is; the
other outcomes are passed on. That a cycle with a fault neither ticks nor updates DIRTY is a choice of the spec
(decisions D10 and D18; log entries 3 and 21), that it keeps its input a choice of the model (log entry 8).
(40_cycle.md, 92_eei_decisions.md D10, 92_eei_decisions.md D18) -/
def Obligations.StepRunsDecodedInstruction : Prop :=
  ∀ (s : State) (i : Instr), Running s → AtPc s i →
    step s =
      match exec i s with
      | .next t =>
        .next (if t.fault = none then
          { t with
            dt := if t.dt = 0 then 0 else t.dt - 1
            st := if t.st = 0 then 0 else t.st - 1
            dirty := match i with | .cls => true | .drw _ _ _ => true | _ => false
            inputs := t.inputs.tail
            cycle := t.cycle + 1 }
          else t)
      | .fault r => .fault r
      | .refused r => .refused r

/-- Whenever step of a running core whose next instruction is i answers a state with no fault latched, DIRTY is 1
there if i is CLS or DRW and 0 otherwise, whether or not a pixel changed. (R126) -/
def Obligations.DirtyAfterDrawOrClear : Prop :=
  ∀ (s t : State) (i : Instr), Running s → AtPc s i → step s = .next t → t.fault = none →
    (t.dirty = true ↔ i = .cls ∨ ∃ x y n, i = .drw x y n)

/-- Whenever step of a running core whose next instruction is i answers a state with no fault latched, DT there is
one below (never under 0) the value i left: VX for LD_DT_VX, the old DT for every other instruction; and ST
likewise with LD_ST_VX. Stall cycles are included; which special cycles tick is a choice of the spec (decision
D18; log entry 21). (40_cycle.md section on the timer tick, 70_reset_and_hazards.md section 3,
92_eei_decisions.md D18) -/
def Obligations.TimersTickEveryCycle : Prop :=
  ∀ (s t : State) (i : Instr), Running s → AtPc s i → step s = .next t → t.fault = none →
    (∀ x, i = .ldDtVx x → t.dt.toNat = (s.reg x).toNat - 1) ∧
    ((∀ x, i ≠ .ldDtVx x) → t.dt.toNat = s.dt.toNat - 1) ∧
    (∀ x, i = .ldStVx x → t.st.toNat = (s.reg x).toNat - 1) ∧
    ((∀ x, i ≠ .ldStVx x) → t.st.toNat = s.st.toNat - 1)

/-- For every running state: if the cycle raises f (fetch beyond memory, a word of no row of the opcode map, or the
execute fault of the decoded instruction, in that order), step answers the same state with f latched; if it
raises none, step answers a next state with no fault latched. The latch and the frozen state are choices of the
spec (decision D10; log entry 3). (40_cycle.md section on faulting cycles, 60_exceptions.md sections 1 and 2,
92_eei_decisions.md D10) -/
def Obligations.FaultingCycleCommitsNothing : Prop :=
  ∀ s : State, Running s →
    (∀ f, stepRaises s = some f → step s = .next { s with fault := some f }) ∧
    (stepRaises s = none → ∃ t, step s = .next t ∧ t.fault = none)

/-- With a fault latched, step answers the same state. That later steps are no-ops is a choice of the spec (decision
D10; log entry 3). (60_exceptions.md section 2, 92_eei_decisions.md D10) -/
def Obligations.HaltedCoreStaysHalted : Prop :=
  ∀ (s : State) (f : Fault), s.fault = some f → step s = .next s

/-- For every instruction and state: if it raises no execute-phase fault, exec answers a next state that differs
only in the pieces the matrix of the spec lists for it (and pc); if it raises f, exec answers the same state
with f latched. The latch and the state left alone are choices of the spec (decision D10; log entry 3), and so
are the faults of a data range and of a key index (decisions D8 and D9; log entry 17). (10_state.md section 8,
60_exceptions.md section 2, 92_eei_decisions.md D8, 92_eei_decisions.md D9, 92_eei_decisions.md D10) -/
def Obligations.InstructionsKeepToTheirWrites : Prop :=
  ∀ (i : Instr) (s : State),
    (raises i s = none → ∃ t, exec i s = .next t ∧ ChangesOnly (writes i s) s t) ∧
    ∀ f, raises i s = some f → exec i s = .next { s with fault := some f }

/-- For every instruction but RND and any two random bytes supplied with the same snapshot, exec answers next states
that differ in nothing but the supplied byte itself, which the model holds (log entry 1). (10_state.md sections
5 and 8) -/
def Obligations.OnlyRndReadsTheRandomByte : Prop :=
  ∀ (i : Instr) (s : State) (keys : BitVec 16) (r r' : Byte), (∀ x nn, i ≠ .rnd x nn) →
    ∃ t, exec i (supply keys r s) = .next t ∧
      exec i (supply keys r' s) = .next { t with inputs := ⟨keys, r'⟩ :: s.inputs }

/-- For every instruction but SKP, SKNP and LD_VX_K and any two snapshots supplied with the same random byte, exec
answers next states that differ in nothing but the supplied snapshot itself, which the model holds (log entry
1). (10_state.md sections 5 and 8) -/
def Obligations.OnlyKeypadInstructionsReadKeys : Prop :=
  ∀ (i : Instr) (s : State) (keys keys' : BitVec 16) (r : Byte),
    (∀ x, i ≠ .skp x) → (∀ x, i ≠ .sknp x) → (∀ x, i ≠ .ldVxK x) →
    ∃ t, exec i (supply keys r s) = .next t ∧
      exec i (supply keys' r s) = .next { t with inputs := ⟨keys', r⟩ :: s.inputs }

/-- For every instruction, exec on two states that differ only in ST and DIRTY answers next states that differ in
nothing but ST and DIRTY. (10_state.md sections 4 and 8) -/
def Obligations.NoInstructionReadsSoundTimerOrDirty : Prop :=
  ∀ (i : Instr) (s : State) (b : Byte) (d : Bool),
    ∃ t u, exec i s = .next t ∧ exec i { s with st := b, dirty := d } = .next u ∧
      { u with st := t.st, dirty := t.dirty } = t

/-- For every instruction with every operand value, decode of encode is the instruction; every term of the type is
well formed. The bit patterns are those the spec takes (decision D2; log entry 11). (30_encoding.md sections 1,
2 and 3, 92_eei_decisions.md D2) -/
def Obligations.DecodeOfEncode : Prop :=
  ∀ i : Instr, decode (encode i) = .ok i

/-- When a word decodes to i and is canonical (bits 3 to 0 zero in the groups 5 and 9, which ignore them), encode of
i is the word. (30_encoding.md sections 2 and 3) -/
def Obligations.EncodeOfDecode : Prop :=
  ∀ (w : Word) (i : Instr), decode w = .ok i → canonicalWord w = true → encode i = w

/-- For every instruction, its word matches a row of the opcode map and has bits 3 to 0 zero in the groups 5 and 9.
(30_encoding.md sections 1 and 3) -/
def Obligations.EncodedWordsAreCanonical : Prop :=
  ∀ i : Instr, canonicalWord (encode i) = true

/-- For every word: if it matches one of the 34 rows of match and mask it decodes to an instruction whose own row it
matches; otherwise the decoder rejects it as an invalid opcode. (30_encoding.md sections 2 and 4) -/
def Obligations.ValidWordsAreThoseThatDecode : Prop :=
  ∀ w : Word,
    (validWord w = true → ∃ i, decode w = .ok i ∧ i.row.covers w = true) ∧
    (validWord w = false → decode w = .error (.invalidOpcode w))

/-- Any two rows of the opcode map that match a common word are the same row. (30_encoding.md section 2) -/
def Obligations.NoWordHasTwoInstructions : Prop :=
  ∀ (w : Word) (a b : Row), a ∈ rows → b ∈ rows → a.covers w = true → b.covers w = true → a = b

/-- A word is rejected exactly when it is in group 0 and neither 00E0 nor 00EE, or in group 8 with low nibble 8 to D
or F, or in group E with a low byte other than 9E and A1, or in group F with a low byte other than the nine
listed. The secondary keys are choices of the spec (decision D4; log entry 13). (30_encoding.md section 4,
92_eei_decisions.md D4) -/
def Obligations.InvalidWordsByGroup : Prop :=
  ∀ w : Word, decode w = .error (.invalidOpcode w) ↔
    (w.toNat / 4096 = 0x0 ∧ w ≠ 0x00E0 ∧ w ≠ 0x00EE) ∨
    (w.toNat / 4096 = 0x8 ∧ w.toNat % 16 ∈ [0x8, 0x9, 0xA, 0xB, 0xC, 0xD, 0xF]) ∨
    (w.toNat / 4096 = 0xE ∧ w.toNat % 256 ∉ [0x9E, 0xA1]) ∨
    (w.toNat / 4096 = 0xF ∧ w.toNat % 256 ∉ [0x07, 0x0A, 0x15, 0x18, 0x1E, 0x29, 0x33, 0x55, 0x65])

/-- Thirteen words of the decode vectors of the spec, some of each family and format, decode to the instructions
listed, low nibbles of the groups 5 and 9 ignored, and five invalid ones are rejected. The patterns are those
the spec takes (decision D2; log entry 11); that the groups 5 and 9 ignore their low nibble and that 01E0 is
invalid are choices of the spec (decision D4; log entry 13). (95_test_vectors.md section 2.2,
92_eei_decisions.md D2, 92_eei_decisions.md D4) -/
def Obligations.SampleWordsDecode : Prop :=
  decode 0x00E0 = .ok .cls ∧ decode 0x00EE = .ok .ret ∧ decode 0x1234 = .ok (.jp 0x234) ∧
    decode 0x3A7F = .ok (.se 0xA 0x7F) ∧ decode 0x512F = .ok (.seReg 0x1 0x2) ∧ decode 0x9125 = .ok (.sneReg 0x1 0x2) ∧
    decode 0x6005 = .ok (.ldImm 0x0 0x05) ∧ decode 0x812E = .ok (.shl 0x1 0x2) ∧ decode 0xA000 = .ok (.ldI 0x000) ∧
    decode 0xDABF = .ok (.drw 0xA 0xB 0xF) ∧ decode 0xE4A1 = .ok (.sknp 0x4) ∧ decode 0xFF0A = .ok (.ldVxK 0xF) ∧
    decode 0xF165 = .ok (.ldRegs 0x1) ∧ decode 0x0000 = .error (.invalidOpcode 0x0000) ∧
    decode 0x01E0 = .error (.invalidOpcode 0x01E0) ∧ decode 0x8128 = .error (.invalidOpcode 0x8128) ∧
    decode 0xE400 = .error (.invalidOpcode 0xE400) ∧ decode 0xF0FF = .error (.invalidOpcode 0xF0FF)

/-- If memory is in its canonical form (addresses rising strictly, below 4096, no entry equal to the reset contents)
and step answers a next state, memory is in it there too. (20_memory.md section 1) -/
def Obligations.StepKeepsMemoryCanonical : Prop :=
  ∀ s t : State, MemoryCanonical s → step s = .next t → MemoryCanonical t

/-- If, whenever KWS is not Idle, the instruction at pc is a key-wait whose register holds KW_KEY once a key has
been seen, then the same holds in every next state step answers: no other instruction ever runs during a key-
wait. (45_keypad_timers.md section 2, 90_conflicts.md C4) -/
def Obligations.StepKeepsKeyWaitCoherent : Prop :=
  ∀ s t : State, KeyWaitCoherent s → step s = .next t → KeyWaitCoherent t

/-- If pc is at most 0x10FE and every stack entry at most 0x1000 and step answers a next state, the same holds
there. (10_state.md section 3, 41_control_flow.md) -/
def Obligations.StepKeepsAddressesBounded : Prop :=
  ∀ s t : State, AddressesBounded s → step s = .next t → AddressesBounded t

/-- At reset no fault is latched, memory is canonical, the key-wait latch is coherent and pc and the stack are in
their bounds. The bound of the stack entries rests on the zeros the spec takes for them (decision D11; log entry
5). (10_state.md section 8, 92_eei_decisions.md D11) -/
def Obligations.ResetMeetsInvariants : Prop :=
  Running State.reset ∧ MemoryCanonical State.reset ∧ KeyWaitCoherent State.reset ∧ AddressesBounded State.reset

/-- At the state a reset leaves from any state: pc = 0x200; V0..VF, I, DT, ST, KW_KEY, the stack entries and SP are
0; KWS is Idle; every pixel is 0; DIRTY is 0; no fault; the glyph of digit 0 and of digit F is in its place and
every byte from 0x050 on is 0. Only pc and the place of the font are in the source of the spec; the other values
are its choices (decisions D11, D15, D19 and D28; log entries 5, 6 and 21). (70_reset_and_hazards.md section 1,
10_state.md section 8, 92_eei_decisions.md D11, 92_eei_decisions.md D15, 92_eei_decisions.md D19,
92_eei_decisions.md D28) -/
def Obligations.ResetLeaves : Prop :=
  ∀ s : State,
    (hostReset s).pc = 0x0200 ∧ (∀ r, (hostReset s).reg r = 0) ∧ (hostReset s).i = 0 ∧ (hostReset s).dt = 0 ∧
    (hostReset s).st = 0 ∧ (hostReset s).sp = 0 ∧ (∀ k : Fin 16, (hostReset s).stack[k] = 0) ∧
    (hostReset s).kws = .idle ∧ (hostReset s).kwKey = 0 ∧ (∀ px py, (hostReset s).pixel px py = false) ∧
    (hostReset s).dirty = false ∧ (hostReset s).fault = none ∧
    (hostReset s).mem.readBytes 0x000 5 = [0xF0, 0x90, 0x90, 0x90, 0xF0] ∧
    (hostReset s).mem.readBytes 0x04B 5 = [0xF0, 0x80, 0xF0, 0x80, 0x80] ∧
    (∀ a, 0x050 ≤ a → (hostReset s).mem.read a = 0)

/-- On a session that has been reset and neither loaded nor stepped, whatever its state, load answers the loaded
session: for a program of at most 3584 bytes the byte at 0x200 + k is byte k there, nothing else is changed, and
memory stays canonical; for a longer one the state is the same with ProgramTooLarge latched, and a step that
follows in spite of it changes nothing, the input it was offered staying unused (log entry 8). The latch is a
choice of the spec (decision D20; log entry 10). (20_memory.md section 4, 60_exceptions.md section 1,
70_reset_and_hazards.md section 2, 92_eei_decisions.md D20) -/
def Obligations.LoadPlacesProgram : Prop :=
  ∀ (bytes : List Byte) (s : State),
    (bytes.length ≤ 3584 → ∃ t, load bytes (.fresh s) = .next (.loaded t) ∧
      (∀ k, ∀ h : k < bytes.length, t.mem.read (0x200 + k) = bytes[k]) ∧
      ChangesOnly (fun p => ∃ k < bytes.length, p = .byte (0x200 + k)) s t ∧
      (MemoryCanonical s → MemoryCanonical t)) ∧
    (3584 < bytes.length →
      load bytes (.fresh s) = .next (.loaded { s with fault := some (.programTooLarge bytes.length) }) ∧
      ∀ keys r, Session.step keys r (.loaded { s with fault := some (.programTooLarge bytes.length) }) =
        .next (.stepped (supply keys r { s with fault := some (.programTooLarge bytes.length) })))

/-- The step from the reset state answers that state with InvalidOpcode of 0x0000 latched. That unloaded memory
reads as 0 is a choice of the spec (decision D28; log entry 6), and so is the state left alone but for the latch
(decision D10; log entry 3). (70_reset_and_hazards.md section 2, 92_eei_decisions.md D10, 92_eei_decisions.md
D28) -/
def Obligations.FirstStepWithoutProgramHalts : Prop :=
  step State.reset = .next { State.reset with fault := some (.invalidOpcode 0x0000) }

/-- Before the first reset load and step are refused. A reset from any session leaves a fresh one, whose state is
the reset state but for the draw number of the free inputs, which the model holds (log entries 1 and 22). After
a load or after a step, load is refused, whatever the state, a latched fault included. After every load that has
a meaning the session is a loaded one; a step from a session that has been reset always has a meaning and leaves
a stepped one, so that only a reset makes a load legal again. The order is a choice of the spec (decision D20;
log entry 10). (70_reset_and_hazards.md section 2, 60_exceptions.md section 5, 92_eei_decisions.md D20) -/
def Obligations.LoadOnlyOnceBeforeSteps : Prop :=
  (∀ bytes, load bytes .absent = .refused .noState) ∧
    (∀ keys r, Session.step keys r .absent = .refused .noState) ∧
    (∀ h : Session, ∃ n, h.reset = .fresh { State.reset with cycle := n }) ∧
    (∀ bytes s, load bytes (.loaded s) = .refused .loadOutOfOrder) ∧
    (∀ bytes s, load bytes (.stepped s) = .refused .loadOutOfOrder) ∧
    (∀ bytes h h', load bytes h = .next h' → ∃ t, h' = .loaded t) ∧
    (∀ keys r (h : Session), h ≠ .absent → ∃ t, Session.step keys r h = .next (.stepped t))
end

