-- ==== Sys2Proof/Laws/Decode.lean ====
section
/-! SUPPORT. The laws of words and fields: the fields of the words the encoder builds, and how a word is made of its
fields. -/

namespace Sys2Proof

/-- Concatenation as a number (R10). -/
theorem append_toNat {m n : Nat} (a : BitVec m) (b : BitVec n) : (a ++ b).toNat = a.toNat * 2 ^ n + b.toNat := by
  rw [BitVec.toNat_append, ← Nat.shiftLeft_add_eq_or_of_lt b.isLt, Nat.shiftLeft_eq]

theorem wordNNN_toNat (a : Nibble) (nnn : Addr12) : (wordNNN a nnn).toNat = a.toNat * 4096 + nnn.toNat :=
  append_toNat a nnn

theorem wordXNN_toNat (a x : Nibble) (nn : Byte) :
    (wordXNN a x nn).toNat = a.toNat * 4096 + x.toNat * 256 + nn.toNat :=
  (append_toNat (a ++ x) nn).trans (by rw [append_toNat]; omega)

theorem wordXYN_toNat (a x y n : Nibble) :
    (wordXYN a x y n).toNat = a.toNat * 4096 + x.toNat * 256 + y.toNat * 16 + n.toNat :=
  (append_toNat (a ++ x ++ y) n).trans (by rw [append_toNat, append_toNat]; omega)

theorem fieldG_toNat (op : Word) : (fieldG op).toNat = op.toNat / 4096 := by
  have := op.isLt
  simp [fieldG, Nat.shiftRight_eq_div_pow]; omega

theorem fieldX_toNat (op : Word) : (fieldX op).toNat = op.toNat / 256 % 16 := by
  simp [fieldX, Nat.shiftRight_eq_div_pow]

theorem fieldY_toNat (op : Word) : (fieldY op).toNat = op.toNat / 16 % 16 := by
  simp [fieldY, Nat.shiftRight_eq_div_pow]

theorem fieldN_toNat (op : Word) : (fieldN op).toNat = op.toNat % 16 := by
  simp [fieldN]

theorem fieldNN_toNat (op : Word) : (fieldNN op).toNat = op.toNat % 256 := by
  simp [fieldNN]

theorem fieldNNN_toNat (op : Word) : (fieldNNN op).toNat = op.toNat % 4096 := by
  simp [fieldNNN]

theorem wordOfBytes_toNat (hi lo : Byte) : (wordOfBytes hi lo).toNat = hi.toNat * 256 + lo.toNat :=
  append_toNat hi lo

/-! The fields of the encoder's words. -/

section
variable (a x y n : Nibble) (nn : Byte) (nnn : Addr12)

@[simp] theorem fieldG_wordNNN : fieldG (wordNNN a nnn) = a := by
  apply BitVec.eq_of_toNat_eq; rw [fieldG_toNat, wordNNN_toNat]; have := nnn.isLt; omega

@[simp] theorem fieldNNN_wordNNN : fieldNNN (wordNNN a nnn) = nnn := by
  apply BitVec.eq_of_toNat_eq; rw [fieldNNN_toNat, wordNNN_toNat]; have := nnn.isLt; omega

@[simp] theorem fieldG_wordXNN : fieldG (wordXNN a x nn) = a := by
  apply BitVec.eq_of_toNat_eq; rw [fieldG_toNat, wordXNN_toNat]; have := nn.isLt; have := x.isLt; omega

@[simp] theorem fieldX_wordXNN : fieldX (wordXNN a x nn) = x := by
  apply BitVec.eq_of_toNat_eq; rw [fieldX_toNat, wordXNN_toNat]; have := nn.isLt; have := x.isLt; omega

@[simp] theorem fieldNN_wordXNN : fieldNN (wordXNN a x nn) = nn := by
  apply BitVec.eq_of_toNat_eq; rw [fieldNN_toNat, wordXNN_toNat]; have := nn.isLt; have := x.isLt; omega

@[simp] theorem fieldG_wordXYN : fieldG (wordXYN a x y n) = a := by
  apply BitVec.eq_of_toNat_eq; rw [fieldG_toNat, wordXYN_toNat]
  have := n.isLt; have := x.isLt; have := y.isLt; omega

@[simp] theorem fieldX_wordXYN : fieldX (wordXYN a x y n) = x := by
  apply BitVec.eq_of_toNat_eq; rw [fieldX_toNat, wordXYN_toNat]
  have := n.isLt; have := x.isLt; have := y.isLt; omega

@[simp] theorem fieldY_wordXYN : fieldY (wordXYN a x y n) = y := by
  apply BitVec.eq_of_toNat_eq; rw [fieldY_toNat, wordXYN_toNat]
  have := n.isLt; have := x.isLt; have := y.isLt; omega

@[simp] theorem fieldN_wordXYN : fieldN (wordXYN a x y n) = n := by
  apply BitVec.eq_of_toNat_eq; rw [fieldN_toNat, wordXYN_toNat]
  have := n.isLt; have := x.isLt; have := y.isLt; omega

end

/-! A word is made of its fields. -/

theorem wordNNN_fields (op : Word) : wordNNN (fieldG op) (fieldNNN op) = op := by
  apply BitVec.eq_of_toNat_eq; rw [wordNNN_toNat, fieldG_toNat, fieldNNN_toNat]; omega

theorem wordXNN_fields (op : Word) : wordXNN (fieldG op) (fieldX op) (fieldNN op) = op := by
  apply BitVec.eq_of_toNat_eq; rw [wordXNN_toNat, fieldG_toNat, fieldX_toNat, fieldNN_toNat]; omega

theorem wordXYN_fields (op : Word) : wordXYN (fieldG op) (fieldX op) (fieldY op) (fieldN op) = op := by
  apply BitVec.eq_of_toNat_eq; rw [wordXYN_toNat, fieldG_toNat, fieldX_toNat, fieldY_toNat, fieldN_toNat]; omega

theorem wordOfBytes_high_low (op : Word) : wordOfBytes (highByte op) (lowByte op) = op := by
  apply BitVec.eq_of_toNat_eq
  have := op.isLt
  rw [wordOfBytes_toNat]
  simp [highByte, lowByte, Nat.shiftRight_eq_div_pow]
  omega

/-! Masks (R94), nibble by nibble. -/

theorem wordXYN_and (a x y n a' x' y' n' : Nibble) :
    wordXYN a x y n &&& wordXYN a' x' y' n' = wordXYN (a &&& a') (x &&& x') (y &&& y') (n &&& n') := by
  have e : ∀ (p q r t : Nibble) (k : Nat), (wordXYN p q r t).getLsbD k =
      if k < 4 then t.getLsbD k else if k < 8 then r.getLsbD (k - 4) else if k < 12 then q.getLsbD (k - 8)
      else p.getLsbD (k - 12) := fun p q r t k => by
    show (p ++ q ++ r ++ t).getLsbD k = _
    simp only [BitVec.getLsbD_append]
    by_cases h4 : k < 4
    · simp [h4]
    · by_cases h8 : k < 8
      · simp [h4, h8, show k - 4 < 4 by omega]
      · by_cases h12 : k < 12
        · simp [h4, h8, h12, show ¬ k - 4 < 4 by omega, show k - 8 < 4 by omega, show k - 4 - 4 = k - 8 by omega]
        · simp [h4, h8, h12, show ¬ k - 4 < 4 by omega, show ¬ k - 4 - 4 < 4 by omega,
            show k - 4 - 4 - 4 = k - 12 by omega]
  apply BitVec.eq_of_getLsbD_eq
  intro k hk
  rw [BitVec.getLsbD_and, e, e, e]
  by_cases h4 : k < 4
  · simp [h4]
  · by_cases h8 : k < 8
    · simp [h4, h8]
    · by_cases h12 : k < 12 <;> simp [h4, h8, h12]

theorem wordXYN_inj (a x y n a' x' y' n' : Nibble) :
    wordXYN a x y n = wordXYN a' x' y' n' ↔ a = a' ∧ x = x' ∧ y = y' ∧ n = n' := by
  constructor
  · intro h
    exact ⟨by rw [← fieldG_wordXYN a x y n, h, fieldG_wordXYN], by rw [← fieldX_wordXYN a x y n, h, fieldX_wordXYN],
      by rw [← fieldY_wordXYN a x y n, h, fieldY_wordXYN], by rw [← fieldN_wordXYN a x y n, h, fieldN_wordXYN]⟩
  · rintro ⟨rfl, rfl, rfl, rfl⟩; rfl

@[simp] theorem Nibble.and_F (a : Nibble) : a &&& 0xF = a := by revert a; decide

@[simp] theorem Nibble.and_0 (a : Nibble) : a &&& 0 = 0 := by revert a; decide

/-- A word whose low byte is written as one immediate, in nibbles. -/
theorem wordXNN_eq (a x : Nibble) (nn : Byte) :
    wordXNN a x nn = wordXYN a x (nn.extractLsb' 4 4) (nn.extractLsb' 0 4) := by
  apply BitVec.eq_of_toNat_eq
  have := nn.isLt
  rw [wordXNN_toNat, wordXYN_toNat]
  simp [Nat.shiftRight_eq_div_pow]
  omega

/-- A word whose low twelve bits are one immediate, in nibbles. -/
theorem wordNNN_eq (a : Nibble) (nnn : Addr12) :
    wordNNN a nnn = wordXYN a (nnn.extractLsb' 8 4) (nnn.extractLsb' 4 4) (nnn.extractLsb' 0 4) := by
  apply BitVec.eq_of_toNat_eq
  have := nnn.isLt
  rw [wordNNN_toNat, wordXYN_toNat]
  simp [Nat.shiftRight_eq_div_pow]
  omega

end Sys2Proof
end

