-- ==== Sys2Proof/Laws/Memory.lean ====
section
/-! SUPPORT. The laws of memory: a read after a write, every other cell left alone, and the canonical form kept. -/

namespace Sys2Proof.Machine

@[simp] theorem Memory.read_nil (a : Nat) : Memory.read [] a = Memory.resetByte a := rfl

@[simp] theorem Memory.read_cons (c : Host.Cell) (m : Memory) (a : Nat) :
    Memory.read (c :: m) a = if c.1 = a then c.2 else Memory.read m a := rfl

theorem Memory.read_erase (m : Memory) (a b : Nat) :
    (Memory.erase m a).read b = if b = a then Memory.resetByte a else m.read b := by
  induction m with
  | nil => by_cases h : b = a <;> simp [Memory.erase, h]
  | cons c m ih =>
    simp only [Memory.erase] at ih ⊢
    by_cases hc : c.1 = a <;> by_cases hb : b = a <;> simp_all
    intro h; omega

theorem Memory.read_insert (m : Memory) (a : Nat) (v : Byte) (b : Nat) (h : ∀ c ∈ m, c.1 ≠ a) :
    (Memory.insert m a v).read b = if b = a then v else m.read b := by
  induction m with
  | nil => simp [Memory.insert, eq_comm]
  | cons c m ih =>
    have hm := ih fun d hd => h d (List.mem_cons_of_mem _ hd)
    have hc := h c List.mem_cons_self
    unfold Memory.insert
    split
    · rw [Memory.read_cons, hm, Memory.read_cons]
      by_cases hb : b = a
      · subst hb; simp [hc]
      · simp [hb]
    · rw [Memory.read_cons]
      by_cases hb : b = a
      · subst hb; simp
      · simp [hb, Ne.symm hb]

theorem Memory.mem_erase (m : Memory) (a : Nat) : ∀ c ∈ Memory.erase m a, c.1 ≠ a := by
  intro c hc
  simpa using (List.mem_filter.mp hc).2

/-- `MemWrite` then `MemRead` (R60): the byte written at its own address, every other address as before. -/
theorem Memory.read_write (m : Memory) (a : Nat) (v : Byte) (b : Nat) :
    (Memory.write m a v).read b = if b = a then v else m.read b := by
  unfold Memory.write
  split
  · rename_i h; rw [Memory.read_erase]; split <;> simp_all
  · rw [Memory.read_insert _ _ _ _ (Memory.mem_erase m a), Memory.read_erase]
    split <;> simp_all

/-- A range store: byte `k` of `bs` at `a + k`, every other address as before (R62). -/
theorem Memory.read_writeBytes (bs : List Byte) (m : Memory) (a b : Nat) :
    (Memory.writeBytes m a bs).read b =
      if h : a ≤ b ∧ b < a + bs.length then bs[b - a]'(by omega) else m.read b := by
  induction bs generalizing m a with
  | nil => simp [Memory.writeBytes]
  | cons v bs ih =>
    rw [Memory.writeBytes, ih, Memory.read_write]
    by_cases hb : b = a
    · subst hb; simp
    · by_cases hr : a ≤ b ∧ b < a + (v :: bs).length
      · have h1 : a + 1 ≤ b ∧ b < a + 1 + bs.length := by simp at hr; omega
        rw [dif_pos h1, dif_pos hr]
        have : b - a = (b - (a + 1)) + 1 := by omega
        simp [this]
      · have h1 : ¬ (a + 1 ≤ b ∧ b < a + 1 + bs.length) := by simp at hr; omega
        simp only [dif_neg h1, dif_neg hr, if_neg hb]

@[simp] theorem Memory.readBytes_length (m : Memory) (a n : Nat) : (m.readBytes a n).length = n := by
  induction n generalizing a with
  | zero => rfl
  | succ n ih => simp [Memory.readBytes, ih]

/-- A range read: byte `k` is the one at `a + k` (R62). -/
@[simp] theorem Memory.readBytes_getElem (m : Memory) (a n k : Nat) (h : k < (m.readBytes a n).length) :
    (m.readBytes a n)[k] = m.read (a + k) := by
  induction n generalizing a k with
  | zero => simp [Memory.readBytes] at h
  | succ n ih =>
    cases k with
    | zero => simp [Memory.readBytes]
    | succ k => simp [Memory.readBytes, ih]; congr 1; omega

/-! The canonical form. -/

theorem Memory.wfFrom_cons (lo : Nat) (c : Host.Cell) (m : Memory) :
    Memory.wfFrom lo (c :: m) = true ↔
      lo ≤ c.1 ∧ c.1 < 4096 ∧ c.2 ≠ Memory.resetByte c.1 ∧ Memory.wfFrom (c.1 + 1) m = true := by
  simp [Memory.wfFrom, and_assoc]

theorem Memory.wfFrom_mono (m : Memory) {lo lo' : Nat} (h : lo' ≤ lo) (w : Memory.wfFrom lo m = true) :
    Memory.wfFrom lo' m = true := by
  cases m with
  | nil => rfl
  | cons c m =>
    rw [Memory.wfFrom_cons] at w ⊢
    exact ⟨by omega, w.2⟩

theorem Memory.wfFrom_erase (m : Memory) (a lo : Nat) (w : Memory.wfFrom lo m = true) :
    Memory.wfFrom lo (Memory.erase m a) = true := by
  induction m generalizing lo with
  | nil => rfl
  | cons c m ih =>
    rw [Memory.wfFrom_cons] at w
    have hm := ih _ w.2.2.2
    unfold Memory.erase at hm ⊢
    by_cases hc : c.1 = a
    · simpa [List.filter_cons, hc] using Memory.wfFrom_mono _ (by omega) hm
    · rw [List.filter_cons, if_pos (by simpa using hc), Memory.wfFrom_cons]
      exact ⟨w.1, w.2.1, w.2.2.1, hm⟩

theorem Memory.wfFrom_insert (m : Memory) (a lo : Nat) (v : Byte) (w : Memory.wfFrom lo m = true) (hlo : lo ≤ a)
    (ha : a < 4096) (hv : v ≠ Memory.resetByte a) (h : ∀ c ∈ m, c.1 ≠ a) :
    Memory.wfFrom lo (Memory.insert m a v) = true := by
  induction m generalizing lo with
  | nil => exact (Memory.wfFrom_cons lo (a, v) []).mpr ⟨hlo, ha, hv, rfl⟩
  | cons c m ih =>
    rw [Memory.wfFrom_cons] at w
    have hc := h c List.mem_cons_self
    unfold Memory.insert
    split
    · rw [Memory.wfFrom_cons]
      exact ⟨w.1, w.2.1, w.2.2.1, ih _ w.2.2.2 (by omega) fun d hd => h d (List.mem_cons_of_mem _ hd)⟩
    · rw [Memory.wfFrom_cons, Memory.wfFrom_cons]
      exact ⟨hlo, ha, hv, by simp; omega, w.2⟩

/-- A write inside the address space keeps the canonical form. -/
theorem Memory.write_wf (m : Memory) (a : Nat) (v : Byte) (w : m.wf = true) (ha : a < 4096) :
    (m.write a v).wf = true := by
  unfold Memory.write
  split
  · exact Memory.wfFrom_erase m a 0 w
  · rename_i hv
    exact Memory.wfFrom_insert _ a 0 v (Memory.wfFrom_erase m a 0 w) (by omega) ha hv (Memory.mem_erase m a)

/-- A range store inside the address space keeps the canonical form. -/
theorem Memory.writeBytes_wf (bs : List Byte) (m : Memory) (a : Nat) (w : m.wf = true)
    (ha : a + bs.length ≤ 4096) : (m.writeBytes a bs).wf = true := by
  induction bs generalizing m a with
  | nil => exact w
  | cons v bs ih =>
    simp at ha
    exact ih _ _ (Memory.write_wf _ _ _ w (by omega)) (by omega)

/-- Below the first listed address a canonical memory reads as at reset. -/
theorem Memory.read_below (m : Memory) (lo a : Nat) (w : Memory.wfFrom lo m = true) (h : a < lo) :
    m.read a = Memory.resetByte a := by
  induction m generalizing lo with
  | nil => rfl
  | cons c m ih =>
    rw [Memory.wfFrom_cons] at w
    rw [Memory.read_cons, if_neg (by omega)]
    exact ih _ w.2.2.2 (by omega)

/-- Two canonical memories from the address `lo` on that read alike are the same data. -/
theorem Memory.wfFrom_ext (m n : Memory) (lo : Nat) (hm : Memory.wfFrom lo m = true) (hn : Memory.wfFrom lo n = true)
    (h : ∀ a, lo ≤ a → m.read a = n.read a) : m = n := by
  induction m generalizing n lo with
  | nil =>
    cases n with
    | nil => rfl
    | cons d n =>
      rw [Memory.wfFrom_cons] at hn
      have := h d.1 hn.1
      exact absurd (by simpa using this.symm) hn.2.2.1
  | cons c m ih =>
    rw [Memory.wfFrom_cons] at hm
    cases n with
    | nil =>
      have := h c.1 hm.1
      exact absurd (by simpa using this) hm.2.2.1
    | cons d n =>
      rw [Memory.wfFrom_cons] at hn
      have hcd : c.1 = d.1 := by
        rcases Nat.lt_trichotomy c.1 d.1 with hl | he | hl
        · have := h c.1 hm.1
          rw [Memory.read_cons, if_pos rfl, Memory.read_cons, if_neg (by omega),
            Memory.read_below n _ _ hn.2.2.2 (by omega)] at this
          exact absurd this hm.2.2.1
        · exact he
        · have := h d.1 hn.1
          rw [Memory.read_cons, if_neg (by omega), Memory.read_cons, if_pos rfl,
            Memory.read_below m _ _ hm.2.2.2 (by omega)] at this
          exact absurd this.symm hn.2.2.1
      have hv : c.2 = d.2 := by simpa [hcd] using h c.1 hm.1
      have hmn : m = n := by
        refine ih n (c.1 + 1) hm.2.2.2 (hcd ▸ hn.2.2.2) fun a ha => ?_
        have := h a (by omega)
        rwa [Memory.read_cons, if_neg (by omega), Memory.read_cons, if_neg (by omega)] at this
      rw [hmn, Prod.ext hcd hv]

/-- Equal memories are equal data: canonical memories that read alike at every address are the same list. -/
theorem Memory.wf_ext (m n : Memory) (hm : m.wf = true) (hn : n.wf = true) (h : ∀ a, m.read a = n.read a) : m = n :=
  Memory.wfFrom_ext m n 0 hm hn fun a _ => h a

end Sys2Proof.Machine
end

