-- ==== Sys2Proof/Laws/State.lean ====
section
/-! SUPPORT. One lemma per field of the state per update, so that no later proof unfolds a record update; then the reads
built on the fields. -/

namespace Sys2Proof.Machine

variable (s : State)

/-! `State.setReg`. -/

@[simp] theorem State.setReg_pc (r : Nibble) (b : Byte) : (s.setReg r b).pc = s.pc := rfl
@[simp] theorem State.setReg_i (r : Nibble) (b : Byte) : (s.setReg r b).i = s.i := rfl
@[simp] theorem State.setReg_sp (r : Nibble) (b : Byte) : (s.setReg r b).sp = s.sp := rfl
@[simp] theorem State.setReg_stack (r : Nibble) (b : Byte) : (s.setReg r b).stack = s.stack := rfl
@[simp] theorem State.setReg_dt (r : Nibble) (b : Byte) : (s.setReg r b).dt = s.dt := rfl
@[simp] theorem State.setReg_st (r : Nibble) (b : Byte) : (s.setReg r b).st = s.st := rfl
@[simp] theorem State.setReg_kws (r : Nibble) (b : Byte) : (s.setReg r b).kws = s.kws := rfl
@[simp] theorem State.setReg_kwKey (r : Nibble) (b : Byte) : (s.setReg r b).kwKey = s.kwKey := rfl
@[simp] theorem State.setReg_fb (r : Nibble) (b : Byte) : (s.setReg r b).fb = s.fb := rfl
@[simp] theorem State.setReg_dirty (r : Nibble) (b : Byte) : (s.setReg r b).dirty = s.dirty := rfl
@[simp] theorem State.setReg_fault (r : Nibble) (b : Byte) : (s.setReg r b).fault = s.fault := rfl
@[simp] theorem State.setReg_mem (r : Nibble) (b : Byte) : (s.setReg r b).mem = s.mem := rfl
@[simp] theorem State.setReg_inputs (r : Nibble) (b : Byte) : (s.setReg r b).inputs = s.inputs := rfl
@[simp] theorem State.setReg_cycle (r : Nibble) (b : Byte) : (s.setReg r b).cycle = s.cycle := rfl
@[simp] theorem State.setReg_pixel (r : Nibble) (b : Byte) (px py : Nat) : (s.setReg r b).pixel px py = s.pixel px py := rfl
@[simp] theorem State.setReg_npc (r : Nibble) (b : Byte) : (s.setReg r b).npc = s.npc := rfl
@[simp] theorem State.setReg_input (r : Nibble) (b : Byte) : (s.setReg r b).input = s.input := rfl

/-! `State.setRegFlag`. -/

@[simp] theorem State.setRegFlag_pc (x : Nibble) (b f : Byte) : (s.setRegFlag x b f).pc = s.pc := rfl
@[simp] theorem State.setRegFlag_i (x : Nibble) (b f : Byte) : (s.setRegFlag x b f).i = s.i := rfl
@[simp] theorem State.setRegFlag_sp (x : Nibble) (b f : Byte) : (s.setRegFlag x b f).sp = s.sp := rfl
@[simp] theorem State.setRegFlag_stack (x : Nibble) (b f : Byte) : (s.setRegFlag x b f).stack = s.stack := rfl
@[simp] theorem State.setRegFlag_dt (x : Nibble) (b f : Byte) : (s.setRegFlag x b f).dt = s.dt := rfl
@[simp] theorem State.setRegFlag_st (x : Nibble) (b f : Byte) : (s.setRegFlag x b f).st = s.st := rfl
@[simp] theorem State.setRegFlag_kws (x : Nibble) (b f : Byte) : (s.setRegFlag x b f).kws = s.kws := rfl
@[simp] theorem State.setRegFlag_kwKey (x : Nibble) (b f : Byte) : (s.setRegFlag x b f).kwKey = s.kwKey := rfl
@[simp] theorem State.setRegFlag_fb (x : Nibble) (b f : Byte) : (s.setRegFlag x b f).fb = s.fb := rfl
@[simp] theorem State.setRegFlag_dirty (x : Nibble) (b f : Byte) : (s.setRegFlag x b f).dirty = s.dirty := rfl
@[simp] theorem State.setRegFlag_fault (x : Nibble) (b f : Byte) : (s.setRegFlag x b f).fault = s.fault := rfl
@[simp] theorem State.setRegFlag_mem (x : Nibble) (b f : Byte) : (s.setRegFlag x b f).mem = s.mem := rfl
@[simp] theorem State.setRegFlag_inputs (x : Nibble) (b f : Byte) : (s.setRegFlag x b f).inputs = s.inputs := rfl
@[simp] theorem State.setRegFlag_cycle (x : Nibble) (b f : Byte) : (s.setRegFlag x b f).cycle = s.cycle := rfl
@[simp] theorem State.setRegFlag_pixel (x : Nibble) (b f : Byte) (px py : Nat) : (s.setRegFlag x b f).pixel px py = s.pixel px py := rfl
@[simp] theorem State.setRegFlag_npc (x : Nibble) (b f : Byte) : (s.setRegFlag x b f).npc = s.npc := rfl
@[simp] theorem State.setRegFlag_input (x : Nibble) (b f : Byte) : (s.setRegFlag x b f).input = s.input := rfl

/-! `State.setRegs`. -/

@[simp] theorem State.setRegs_pc (bs : List Byte) : (s.setRegs bs).pc = s.pc := rfl
@[simp] theorem State.setRegs_i (bs : List Byte) : (s.setRegs bs).i = s.i := rfl
@[simp] theorem State.setRegs_sp (bs : List Byte) : (s.setRegs bs).sp = s.sp := rfl
@[simp] theorem State.setRegs_stack (bs : List Byte) : (s.setRegs bs).stack = s.stack := rfl
@[simp] theorem State.setRegs_dt (bs : List Byte) : (s.setRegs bs).dt = s.dt := rfl
@[simp] theorem State.setRegs_st (bs : List Byte) : (s.setRegs bs).st = s.st := rfl
@[simp] theorem State.setRegs_kws (bs : List Byte) : (s.setRegs bs).kws = s.kws := rfl
@[simp] theorem State.setRegs_kwKey (bs : List Byte) : (s.setRegs bs).kwKey = s.kwKey := rfl
@[simp] theorem State.setRegs_fb (bs : List Byte) : (s.setRegs bs).fb = s.fb := rfl
@[simp] theorem State.setRegs_dirty (bs : List Byte) : (s.setRegs bs).dirty = s.dirty := rfl
@[simp] theorem State.setRegs_fault (bs : List Byte) : (s.setRegs bs).fault = s.fault := rfl
@[simp] theorem State.setRegs_mem (bs : List Byte) : (s.setRegs bs).mem = s.mem := rfl
@[simp] theorem State.setRegs_inputs (bs : List Byte) : (s.setRegs bs).inputs = s.inputs := rfl
@[simp] theorem State.setRegs_cycle (bs : List Byte) : (s.setRegs bs).cycle = s.cycle := rfl
@[simp] theorem State.setRegs_pixel (bs : List Byte) (px py : Nat) : (s.setRegs bs).pixel px py = s.pixel px py := rfl
@[simp] theorem State.setRegs_npc (bs : List Byte) : (s.setRegs bs).npc = s.npc := rfl
@[simp] theorem State.setRegs_input (bs : List Byte) : (s.setRegs bs).input = s.input := rfl

/-! `State.setI`. -/

@[simp] theorem State.setI_v (w : Word) : (s.setI w).v = s.v := rfl
@[simp] theorem State.setI_pc (w : Word) : (s.setI w).pc = s.pc := rfl
@[simp] theorem State.setI_i (w : Word) : (s.setI w).i = w := rfl
@[simp] theorem State.setI_sp (w : Word) : (s.setI w).sp = s.sp := rfl
@[simp] theorem State.setI_stack (w : Word) : (s.setI w).stack = s.stack := rfl
@[simp] theorem State.setI_dt (w : Word) : (s.setI w).dt = s.dt := rfl
@[simp] theorem State.setI_st (w : Word) : (s.setI w).st = s.st := rfl
@[simp] theorem State.setI_kws (w : Word) : (s.setI w).kws = s.kws := rfl
@[simp] theorem State.setI_kwKey (w : Word) : (s.setI w).kwKey = s.kwKey := rfl
@[simp] theorem State.setI_fb (w : Word) : (s.setI w).fb = s.fb := rfl
@[simp] theorem State.setI_dirty (w : Word) : (s.setI w).dirty = s.dirty := rfl
@[simp] theorem State.setI_fault (w : Word) : (s.setI w).fault = s.fault := rfl
@[simp] theorem State.setI_mem (w : Word) : (s.setI w).mem = s.mem := rfl
@[simp] theorem State.setI_inputs (w : Word) : (s.setI w).inputs = s.inputs := rfl
@[simp] theorem State.setI_cycle (w : Word) : (s.setI w).cycle = s.cycle := rfl
@[simp] theorem State.setI_reg (w : Word) (q : Nibble) : (s.setI w).reg q = s.reg q := rfl
@[simp] theorem State.setI_pixel (w : Word) (px py : Nat) : (s.setI w).pixel px py = s.pixel px py := rfl
@[simp] theorem State.setI_npc (w : Word) : (s.setI w).npc = s.npc := rfl
@[simp] theorem State.setI_input (w : Word) : (s.setI w).input = s.input := rfl

/-! `State.setDt`. -/

@[simp] theorem State.setDt_v (b : Byte) : (s.setDt b).v = s.v := rfl
@[simp] theorem State.setDt_pc (b : Byte) : (s.setDt b).pc = s.pc := rfl
@[simp] theorem State.setDt_i (b : Byte) : (s.setDt b).i = s.i := rfl
@[simp] theorem State.setDt_sp (b : Byte) : (s.setDt b).sp = s.sp := rfl
@[simp] theorem State.setDt_stack (b : Byte) : (s.setDt b).stack = s.stack := rfl
@[simp] theorem State.setDt_dt (b : Byte) : (s.setDt b).dt = b := rfl
@[simp] theorem State.setDt_st (b : Byte) : (s.setDt b).st = s.st := rfl
@[simp] theorem State.setDt_kws (b : Byte) : (s.setDt b).kws = s.kws := rfl
@[simp] theorem State.setDt_kwKey (b : Byte) : (s.setDt b).kwKey = s.kwKey := rfl
@[simp] theorem State.setDt_fb (b : Byte) : (s.setDt b).fb = s.fb := rfl
@[simp] theorem State.setDt_dirty (b : Byte) : (s.setDt b).dirty = s.dirty := rfl
@[simp] theorem State.setDt_fault (b : Byte) : (s.setDt b).fault = s.fault := rfl
@[simp] theorem State.setDt_mem (b : Byte) : (s.setDt b).mem = s.mem := rfl
@[simp] theorem State.setDt_inputs (b : Byte) : (s.setDt b).inputs = s.inputs := rfl
@[simp] theorem State.setDt_cycle (b : Byte) : (s.setDt b).cycle = s.cycle := rfl
@[simp] theorem State.setDt_reg (b : Byte) (q : Nibble) : (s.setDt b).reg q = s.reg q := rfl
@[simp] theorem State.setDt_pixel (b : Byte) (px py : Nat) : (s.setDt b).pixel px py = s.pixel px py := rfl
@[simp] theorem State.setDt_npc (b : Byte) : (s.setDt b).npc = s.npc := rfl
@[simp] theorem State.setDt_input (b : Byte) : (s.setDt b).input = s.input := rfl

/-! `State.setSt`. -/

@[simp] theorem State.setSt_v (b : Byte) : (s.setSt b).v = s.v := rfl
@[simp] theorem State.setSt_pc (b : Byte) : (s.setSt b).pc = s.pc := rfl
@[simp] theorem State.setSt_i (b : Byte) : (s.setSt b).i = s.i := rfl
@[simp] theorem State.setSt_sp (b : Byte) : (s.setSt b).sp = s.sp := rfl
@[simp] theorem State.setSt_stack (b : Byte) : (s.setSt b).stack = s.stack := rfl
@[simp] theorem State.setSt_dt (b : Byte) : (s.setSt b).dt = s.dt := rfl
@[simp] theorem State.setSt_st (b : Byte) : (s.setSt b).st = b := rfl
@[simp] theorem State.setSt_kws (b : Byte) : (s.setSt b).kws = s.kws := rfl
@[simp] theorem State.setSt_kwKey (b : Byte) : (s.setSt b).kwKey = s.kwKey := rfl
@[simp] theorem State.setSt_fb (b : Byte) : (s.setSt b).fb = s.fb := rfl
@[simp] theorem State.setSt_dirty (b : Byte) : (s.setSt b).dirty = s.dirty := rfl
@[simp] theorem State.setSt_fault (b : Byte) : (s.setSt b).fault = s.fault := rfl
@[simp] theorem State.setSt_mem (b : Byte) : (s.setSt b).mem = s.mem := rfl
@[simp] theorem State.setSt_inputs (b : Byte) : (s.setSt b).inputs = s.inputs := rfl
@[simp] theorem State.setSt_cycle (b : Byte) : (s.setSt b).cycle = s.cycle := rfl
@[simp] theorem State.setSt_reg (b : Byte) (q : Nibble) : (s.setSt b).reg q = s.reg q := rfl
@[simp] theorem State.setSt_pixel (b : Byte) (px py : Nat) : (s.setSt b).pixel px py = s.pixel px py := rfl
@[simp] theorem State.setSt_npc (b : Byte) : (s.setSt b).npc = s.npc := rfl
@[simp] theorem State.setSt_input (b : Byte) : (s.setSt b).input = s.input := rfl

/-! `State.setMem`. -/

@[simp] theorem State.setMem_v (m : Memory) : (s.setMem m).v = s.v := rfl
@[simp] theorem State.setMem_pc (m : Memory) : (s.setMem m).pc = s.pc := rfl
@[simp] theorem State.setMem_i (m : Memory) : (s.setMem m).i = s.i := rfl
@[simp] theorem State.setMem_sp (m : Memory) : (s.setMem m).sp = s.sp := rfl
@[simp] theorem State.setMem_stack (m : Memory) : (s.setMem m).stack = s.stack := rfl
@[simp] theorem State.setMem_dt (m : Memory) : (s.setMem m).dt = s.dt := rfl
@[simp] theorem State.setMem_st (m : Memory) : (s.setMem m).st = s.st := rfl
@[simp] theorem State.setMem_kws (m : Memory) : (s.setMem m).kws = s.kws := rfl
@[simp] theorem State.setMem_kwKey (m : Memory) : (s.setMem m).kwKey = s.kwKey := rfl
@[simp] theorem State.setMem_fb (m : Memory) : (s.setMem m).fb = s.fb := rfl
@[simp] theorem State.setMem_dirty (m : Memory) : (s.setMem m).dirty = s.dirty := rfl
@[simp] theorem State.setMem_fault (m : Memory) : (s.setMem m).fault = s.fault := rfl
@[simp] theorem State.setMem_mem (m : Memory) : (s.setMem m).mem = m := rfl
@[simp] theorem State.setMem_inputs (m : Memory) : (s.setMem m).inputs = s.inputs := rfl
@[simp] theorem State.setMem_cycle (m : Memory) : (s.setMem m).cycle = s.cycle := rfl
@[simp] theorem State.setMem_reg (m : Memory) (q : Nibble) : (s.setMem m).reg q = s.reg q := rfl
@[simp] theorem State.setMem_pixel (m : Memory) (px py : Nat) : (s.setMem m).pixel px py = s.pixel px py := rfl
@[simp] theorem State.setMem_npc (m : Memory) : (s.setMem m).npc = s.npc := rfl
@[simp] theorem State.setMem_input (m : Memory) : (s.setMem m).input = s.input := rfl

/-! `State.setFb`. -/

@[simp] theorem State.setFb_v (fb : Vector (BitVec 64) 32) : (s.setFb fb).v = s.v := rfl
@[simp] theorem State.setFb_pc (fb : Vector (BitVec 64) 32) : (s.setFb fb).pc = s.pc := rfl
@[simp] theorem State.setFb_i (fb : Vector (BitVec 64) 32) : (s.setFb fb).i = s.i := rfl
@[simp] theorem State.setFb_sp (fb : Vector (BitVec 64) 32) : (s.setFb fb).sp = s.sp := rfl
@[simp] theorem State.setFb_stack (fb : Vector (BitVec 64) 32) : (s.setFb fb).stack = s.stack := rfl
@[simp] theorem State.setFb_dt (fb : Vector (BitVec 64) 32) : (s.setFb fb).dt = s.dt := rfl
@[simp] theorem State.setFb_st (fb : Vector (BitVec 64) 32) : (s.setFb fb).st = s.st := rfl
@[simp] theorem State.setFb_kws (fb : Vector (BitVec 64) 32) : (s.setFb fb).kws = s.kws := rfl
@[simp] theorem State.setFb_kwKey (fb : Vector (BitVec 64) 32) : (s.setFb fb).kwKey = s.kwKey := rfl
@[simp] theorem State.setFb_fb (fb : Vector (BitVec 64) 32) : (s.setFb fb).fb = fb := rfl
@[simp] theorem State.setFb_dirty (fb : Vector (BitVec 64) 32) : (s.setFb fb).dirty = s.dirty := rfl
@[simp] theorem State.setFb_fault (fb : Vector (BitVec 64) 32) : (s.setFb fb).fault = s.fault := rfl
@[simp] theorem State.setFb_mem (fb : Vector (BitVec 64) 32) : (s.setFb fb).mem = s.mem := rfl
@[simp] theorem State.setFb_inputs (fb : Vector (BitVec 64) 32) : (s.setFb fb).inputs = s.inputs := rfl
@[simp] theorem State.setFb_cycle (fb : Vector (BitVec 64) 32) : (s.setFb fb).cycle = s.cycle := rfl
@[simp] theorem State.setFb_reg (fb : Vector (BitVec 64) 32) (q : Nibble) : (s.setFb fb).reg q = s.reg q := rfl
@[simp] theorem State.setFb_npc (fb : Vector (BitVec 64) 32) : (s.setFb fb).npc = s.npc := rfl
@[simp] theorem State.setFb_input (fb : Vector (BitVec 64) 32) : (s.setFb fb).input = s.input := rfl

/-! `State.setKeyWait`. -/

@[simp] theorem State.setKeyWait_v (w : KeyWait) (k : Nibble) : (s.setKeyWait w k).v = s.v := rfl
@[simp] theorem State.setKeyWait_pc (w : KeyWait) (k : Nibble) : (s.setKeyWait w k).pc = s.pc := rfl
@[simp] theorem State.setKeyWait_i (w : KeyWait) (k : Nibble) : (s.setKeyWait w k).i = s.i := rfl
@[simp] theorem State.setKeyWait_sp (w : KeyWait) (k : Nibble) : (s.setKeyWait w k).sp = s.sp := rfl
@[simp] theorem State.setKeyWait_stack (w : KeyWait) (k : Nibble) : (s.setKeyWait w k).stack = s.stack := rfl
@[simp] theorem State.setKeyWait_dt (w : KeyWait) (k : Nibble) : (s.setKeyWait w k).dt = s.dt := rfl
@[simp] theorem State.setKeyWait_st (w : KeyWait) (k : Nibble) : (s.setKeyWait w k).st = s.st := rfl
@[simp] theorem State.setKeyWait_kws (w : KeyWait) (k : Nibble) : (s.setKeyWait w k).kws = w := rfl
@[simp] theorem State.setKeyWait_kwKey (w : KeyWait) (k : Nibble) : (s.setKeyWait w k).kwKey = k := rfl
@[simp] theorem State.setKeyWait_fb (w : KeyWait) (k : Nibble) : (s.setKeyWait w k).fb = s.fb := rfl
@[simp] theorem State.setKeyWait_dirty (w : KeyWait) (k : Nibble) : (s.setKeyWait w k).dirty = s.dirty := rfl
@[simp] theorem State.setKeyWait_fault (w : KeyWait) (k : Nibble) : (s.setKeyWait w k).fault = s.fault := rfl
@[simp] theorem State.setKeyWait_mem (w : KeyWait) (k : Nibble) : (s.setKeyWait w k).mem = s.mem := rfl
@[simp] theorem State.setKeyWait_inputs (w : KeyWait) (k : Nibble) : (s.setKeyWait w k).inputs = s.inputs := rfl
@[simp] theorem State.setKeyWait_cycle (w : KeyWait) (k : Nibble) : (s.setKeyWait w k).cycle = s.cycle := rfl
@[simp] theorem State.setKeyWait_reg (w : KeyWait) (k : Nibble) (q : Nibble) : (s.setKeyWait w k).reg q = s.reg q := rfl
@[simp] theorem State.setKeyWait_pixel (w : KeyWait) (k : Nibble) (px py : Nat) : (s.setKeyWait w k).pixel px py = s.pixel px py := rfl
@[simp] theorem State.setKeyWait_npc (w : KeyWait) (k : Nibble) : (s.setKeyWait w k).npc = s.npc := rfl
@[simp] theorem State.setKeyWait_input (w : KeyWait) (k : Nibble) : (s.setKeyWait w k).input = s.input := rfl

/-! `State.goto`. -/

@[simp] theorem State.goto_v (w : Word) : (s.goto w).v = s.v := rfl
@[simp] theorem State.goto_pc (w : Word) : (s.goto w).pc = w := rfl
@[simp] theorem State.goto_i (w : Word) : (s.goto w).i = s.i := rfl
@[simp] theorem State.goto_sp (w : Word) : (s.goto w).sp = s.sp := rfl
@[simp] theorem State.goto_stack (w : Word) : (s.goto w).stack = s.stack := rfl
@[simp] theorem State.goto_dt (w : Word) : (s.goto w).dt = s.dt := rfl
@[simp] theorem State.goto_st (w : Word) : (s.goto w).st = s.st := rfl
@[simp] theorem State.goto_kws (w : Word) : (s.goto w).kws = s.kws := rfl
@[simp] theorem State.goto_kwKey (w : Word) : (s.goto w).kwKey = s.kwKey := rfl
@[simp] theorem State.goto_fb (w : Word) : (s.goto w).fb = s.fb := rfl
@[simp] theorem State.goto_dirty (w : Word) : (s.goto w).dirty = s.dirty := rfl
@[simp] theorem State.goto_fault (w : Word) : (s.goto w).fault = s.fault := rfl
@[simp] theorem State.goto_mem (w : Word) : (s.goto w).mem = s.mem := rfl
@[simp] theorem State.goto_inputs (w : Word) : (s.goto w).inputs = s.inputs := rfl
@[simp] theorem State.goto_cycle (w : Word) : (s.goto w).cycle = s.cycle := rfl
@[simp] theorem State.goto_reg (w : Word) (q : Nibble) : (s.goto w).reg q = s.reg q := rfl
@[simp] theorem State.goto_pixel (w : Word) (px py : Nat) : (s.goto w).pixel px py = s.pixel px py := rfl
@[simp] theorem State.goto_input (w : Word) : (s.goto w).input = s.input := rfl

/-! `State.advance`. -/

@[simp] theorem State.advance_v : (s.advance).v = s.v := rfl
@[simp] theorem State.advance_pc : (s.advance).pc = s.npc := rfl
@[simp] theorem State.advance_i : (s.advance).i = s.i := rfl
@[simp] theorem State.advance_sp : (s.advance).sp = s.sp := rfl
@[simp] theorem State.advance_stack : (s.advance).stack = s.stack := rfl
@[simp] theorem State.advance_dt : (s.advance).dt = s.dt := rfl
@[simp] theorem State.advance_st : (s.advance).st = s.st := rfl
@[simp] theorem State.advance_kws : (s.advance).kws = s.kws := rfl
@[simp] theorem State.advance_kwKey : (s.advance).kwKey = s.kwKey := rfl
@[simp] theorem State.advance_fb : (s.advance).fb = s.fb := rfl
@[simp] theorem State.advance_dirty : (s.advance).dirty = s.dirty := rfl
@[simp] theorem State.advance_fault : (s.advance).fault = s.fault := rfl
@[simp] theorem State.advance_mem : (s.advance).mem = s.mem := rfl
@[simp] theorem State.advance_inputs : (s.advance).inputs = s.inputs := rfl
@[simp] theorem State.advance_cycle : (s.advance).cycle = s.cycle := rfl
@[simp] theorem State.advance_reg (q : Nibble) : (s.advance).reg q = s.reg q := rfl
@[simp] theorem State.advance_pixel (px py : Nat) : (s.advance).pixel px py = s.pixel px py := rfl
@[simp] theorem State.advance_input : (s.advance).input = s.input := rfl

/-! `State.stall`. -/

@[simp] theorem State.stall_v : (s.stall).v = s.v := rfl
@[simp] theorem State.stall_pc : (s.stall).pc = s.npc - 2 := rfl
@[simp] theorem State.stall_i : (s.stall).i = s.i := rfl
@[simp] theorem State.stall_sp : (s.stall).sp = s.sp := rfl
@[simp] theorem State.stall_stack : (s.stall).stack = s.stack := rfl
@[simp] theorem State.stall_dt : (s.stall).dt = s.dt := rfl
@[simp] theorem State.stall_st : (s.stall).st = s.st := rfl
@[simp] theorem State.stall_kws : (s.stall).kws = s.kws := rfl
@[simp] theorem State.stall_kwKey : (s.stall).kwKey = s.kwKey := rfl
@[simp] theorem State.stall_fb : (s.stall).fb = s.fb := rfl
@[simp] theorem State.stall_dirty : (s.stall).dirty = s.dirty := rfl
@[simp] theorem State.stall_fault : (s.stall).fault = s.fault := rfl
@[simp] theorem State.stall_mem : (s.stall).mem = s.mem := rfl
@[simp] theorem State.stall_inputs : (s.stall).inputs = s.inputs := rfl
@[simp] theorem State.stall_cycle : (s.stall).cycle = s.cycle := rfl
@[simp] theorem State.stall_reg (q : Nibble) : (s.stall).reg q = s.reg q := rfl
@[simp] theorem State.stall_pixel (px py : Nat) : (s.stall).pixel px py = s.pixel px py := rfl
@[simp] theorem State.stall_input : (s.stall).input = s.input := rfl

/-! `State.raise`. -/

@[simp] theorem State.raise_v (f : Fault) : (s.raise f).v = s.v := rfl
@[simp] theorem State.raise_pc (f : Fault) : (s.raise f).pc = s.pc := rfl
@[simp] theorem State.raise_i (f : Fault) : (s.raise f).i = s.i := rfl
@[simp] theorem State.raise_sp (f : Fault) : (s.raise f).sp = s.sp := rfl
@[simp] theorem State.raise_stack (f : Fault) : (s.raise f).stack = s.stack := rfl
@[simp] theorem State.raise_dt (f : Fault) : (s.raise f).dt = s.dt := rfl
@[simp] theorem State.raise_st (f : Fault) : (s.raise f).st = s.st := rfl
@[simp] theorem State.raise_kws (f : Fault) : (s.raise f).kws = s.kws := rfl
@[simp] theorem State.raise_kwKey (f : Fault) : (s.raise f).kwKey = s.kwKey := rfl
@[simp] theorem State.raise_fb (f : Fault) : (s.raise f).fb = s.fb := rfl
@[simp] theorem State.raise_dirty (f : Fault) : (s.raise f).dirty = s.dirty := rfl
@[simp] theorem State.raise_fault (f : Fault) : (s.raise f).fault = some f := rfl
@[simp] theorem State.raise_mem (f : Fault) : (s.raise f).mem = s.mem := rfl
@[simp] theorem State.raise_inputs (f : Fault) : (s.raise f).inputs = s.inputs := rfl
@[simp] theorem State.raise_cycle (f : Fault) : (s.raise f).cycle = s.cycle := rfl
@[simp] theorem State.raise_reg (f : Fault) (q : Nibble) : (s.raise f).reg q = s.reg q := rfl
@[simp] theorem State.raise_pixel (f : Fault) (px py : Nat) : (s.raise f).pixel px py = s.pixel px py := rfl
@[simp] theorem State.raise_npc (f : Fault) : (s.raise f).npc = s.npc := rfl
@[simp] theorem State.raise_input (f : Fault) : (s.raise f).input = s.input := rfl

/-! `State.tick`. -/

@[simp] theorem State.tick_v : (s.tick).v = s.v := rfl
@[simp] theorem State.tick_pc : (s.tick).pc = s.pc := rfl
@[simp] theorem State.tick_i : (s.tick).i = s.i := rfl
@[simp] theorem State.tick_sp : (s.tick).sp = s.sp := rfl
@[simp] theorem State.tick_stack : (s.tick).stack = s.stack := rfl
@[simp] theorem State.tick_dt : (s.tick).dt = tickTimer s.dt := rfl
@[simp] theorem State.tick_st : (s.tick).st = tickTimer s.st := rfl
@[simp] theorem State.tick_kws : (s.tick).kws = s.kws := rfl
@[simp] theorem State.tick_kwKey : (s.tick).kwKey = s.kwKey := rfl
@[simp] theorem State.tick_fb : (s.tick).fb = s.fb := rfl
@[simp] theorem State.tick_dirty : (s.tick).dirty = s.dirty := rfl
@[simp] theorem State.tick_fault : (s.tick).fault = s.fault := rfl
@[simp] theorem State.tick_mem : (s.tick).mem = s.mem := rfl
@[simp] theorem State.tick_inputs : (s.tick).inputs = s.inputs := rfl
@[simp] theorem State.tick_cycle : (s.tick).cycle = s.cycle := rfl
@[simp] theorem State.tick_reg (q : Nibble) : (s.tick).reg q = s.reg q := rfl
@[simp] theorem State.tick_pixel (px py : Nat) : (s.tick).pixel px py = s.pixel px py := rfl
@[simp] theorem State.tick_npc : (s.tick).npc = s.npc := rfl
@[simp] theorem State.tick_input : (s.tick).input = s.input := rfl

/-! `State.setDirty`. -/

@[simp] theorem State.setDirty_v (d : Bool) : (s.setDirty d).v = s.v := rfl
@[simp] theorem State.setDirty_pc (d : Bool) : (s.setDirty d).pc = s.pc := rfl
@[simp] theorem State.setDirty_i (d : Bool) : (s.setDirty d).i = s.i := rfl
@[simp] theorem State.setDirty_sp (d : Bool) : (s.setDirty d).sp = s.sp := rfl
@[simp] theorem State.setDirty_stack (d : Bool) : (s.setDirty d).stack = s.stack := rfl
@[simp] theorem State.setDirty_dt (d : Bool) : (s.setDirty d).dt = s.dt := rfl
@[simp] theorem State.setDirty_st (d : Bool) : (s.setDirty d).st = s.st := rfl
@[simp] theorem State.setDirty_kws (d : Bool) : (s.setDirty d).kws = s.kws := rfl
@[simp] theorem State.setDirty_kwKey (d : Bool) : (s.setDirty d).kwKey = s.kwKey := rfl
@[simp] theorem State.setDirty_fb (d : Bool) : (s.setDirty d).fb = s.fb := rfl
@[simp] theorem State.setDirty_dirty (d : Bool) : (s.setDirty d).dirty = d := rfl
@[simp] theorem State.setDirty_fault (d : Bool) : (s.setDirty d).fault = s.fault := rfl
@[simp] theorem State.setDirty_mem (d : Bool) : (s.setDirty d).mem = s.mem := rfl
@[simp] theorem State.setDirty_inputs (d : Bool) : (s.setDirty d).inputs = s.inputs := rfl
@[simp] theorem State.setDirty_cycle (d : Bool) : (s.setDirty d).cycle = s.cycle := rfl
@[simp] theorem State.setDirty_reg (d : Bool) (q : Nibble) : (s.setDirty d).reg q = s.reg q := rfl
@[simp] theorem State.setDirty_pixel (d : Bool) (px py : Nat) : (s.setDirty d).pixel px py = s.pixel px py := rfl
@[simp] theorem State.setDirty_npc (d : Bool) : (s.setDirty d).npc = s.npc := rfl
@[simp] theorem State.setDirty_input (d : Bool) : (s.setDirty d).input = s.input := rfl

/-! `State.nextInput`. -/

@[simp] theorem State.nextInput_v : (s.nextInput).v = s.v := rfl
@[simp] theorem State.nextInput_pc : (s.nextInput).pc = s.pc := rfl
@[simp] theorem State.nextInput_i : (s.nextInput).i = s.i := rfl
@[simp] theorem State.nextInput_sp : (s.nextInput).sp = s.sp := rfl
@[simp] theorem State.nextInput_stack : (s.nextInput).stack = s.stack := rfl
@[simp] theorem State.nextInput_dt : (s.nextInput).dt = s.dt := rfl
@[simp] theorem State.nextInput_st : (s.nextInput).st = s.st := rfl
@[simp] theorem State.nextInput_kws : (s.nextInput).kws = s.kws := rfl
@[simp] theorem State.nextInput_kwKey : (s.nextInput).kwKey = s.kwKey := rfl
@[simp] theorem State.nextInput_fb : (s.nextInput).fb = s.fb := rfl
@[simp] theorem State.nextInput_dirty : (s.nextInput).dirty = s.dirty := rfl
@[simp] theorem State.nextInput_fault : (s.nextInput).fault = s.fault := rfl
@[simp] theorem State.nextInput_mem : (s.nextInput).mem = s.mem := rfl
@[simp] theorem State.nextInput_inputs : (s.nextInput).inputs = s.inputs.tail := rfl
@[simp] theorem State.nextInput_cycle : (s.nextInput).cycle = s.cycle + 1 := rfl
@[simp] theorem State.nextInput_reg (q : Nibble) : (s.nextInput).reg q = s.reg q := rfl
@[simp] theorem State.nextInput_pixel (px py : Nat) : (s.nextInput).pixel px py = s.pixel px py := rfl
@[simp] theorem State.nextInput_npc : (s.nextInput).npc = s.npc := rfl

/-! `State.endCycle`. -/

@[simp] theorem State.endCycle_v (d : Bool) : (s.endCycle d).v = s.v := rfl
@[simp] theorem State.endCycle_pc (d : Bool) : (s.endCycle d).pc = s.pc := rfl
@[simp] theorem State.endCycle_i (d : Bool) : (s.endCycle d).i = s.i := rfl
@[simp] theorem State.endCycle_sp (d : Bool) : (s.endCycle d).sp = s.sp := rfl
@[simp] theorem State.endCycle_stack (d : Bool) : (s.endCycle d).stack = s.stack := rfl
@[simp] theorem State.endCycle_dt (d : Bool) : (s.endCycle d).dt = tickTimer s.dt := rfl
@[simp] theorem State.endCycle_st (d : Bool) : (s.endCycle d).st = tickTimer s.st := rfl
@[simp] theorem State.endCycle_kws (d : Bool) : (s.endCycle d).kws = s.kws := rfl
@[simp] theorem State.endCycle_kwKey (d : Bool) : (s.endCycle d).kwKey = s.kwKey := rfl
@[simp] theorem State.endCycle_fb (d : Bool) : (s.endCycle d).fb = s.fb := rfl
@[simp] theorem State.endCycle_dirty (d : Bool) : (s.endCycle d).dirty = d := rfl
@[simp] theorem State.endCycle_fault (d : Bool) : (s.endCycle d).fault = s.fault := rfl
@[simp] theorem State.endCycle_mem (d : Bool) : (s.endCycle d).mem = s.mem := rfl
@[simp] theorem State.endCycle_inputs (d : Bool) : (s.endCycle d).inputs = s.inputs.tail := rfl
@[simp] theorem State.endCycle_cycle (d : Bool) : (s.endCycle d).cycle = s.cycle + 1 := rfl
@[simp] theorem State.endCycle_reg (d : Bool) (q : Nibble) : (s.endCycle d).reg q = s.reg q := rfl
@[simp] theorem State.endCycle_pixel (d : Bool) (px py : Nat) : (s.endCycle d).pixel px py = s.pixel px py := rfl
@[simp] theorem State.endCycle_npc (d : Bool) : (s.endCycle d).npc = s.npc := rfl

/-! `State.skipIf`. -/

@[simp] theorem State.skipIf_v (c : Bool) : (s.skipIf c).v = s.v := rfl
@[simp] theorem State.skipIf_pc (c : Bool) : (s.skipIf c).pc = if c then s.pc + 4 else s.pc + 2 := by
  cases c <;> simp [State.skipIf, State.npc, BitVec.add_assoc]
@[simp] theorem State.skipIf_i (c : Bool) : (s.skipIf c).i = s.i := rfl
@[simp] theorem State.skipIf_sp (c : Bool) : (s.skipIf c).sp = s.sp := rfl
@[simp] theorem State.skipIf_stack (c : Bool) : (s.skipIf c).stack = s.stack := rfl
@[simp] theorem State.skipIf_dt (c : Bool) : (s.skipIf c).dt = s.dt := rfl
@[simp] theorem State.skipIf_st (c : Bool) : (s.skipIf c).st = s.st := rfl
@[simp] theorem State.skipIf_kws (c : Bool) : (s.skipIf c).kws = s.kws := rfl
@[simp] theorem State.skipIf_kwKey (c : Bool) : (s.skipIf c).kwKey = s.kwKey := rfl
@[simp] theorem State.skipIf_fb (c : Bool) : (s.skipIf c).fb = s.fb := rfl
@[simp] theorem State.skipIf_dirty (c : Bool) : (s.skipIf c).dirty = s.dirty := rfl
@[simp] theorem State.skipIf_fault (c : Bool) : (s.skipIf c).fault = s.fault := rfl
@[simp] theorem State.skipIf_mem (c : Bool) : (s.skipIf c).mem = s.mem := rfl
@[simp] theorem State.skipIf_inputs (c : Bool) : (s.skipIf c).inputs = s.inputs := rfl
@[simp] theorem State.skipIf_cycle (c : Bool) : (s.skipIf c).cycle = s.cycle := rfl
@[simp] theorem State.skipIf_reg (c : Bool) (q : Nibble) : (s.skipIf c).reg q = s.reg q := rfl
@[simp] theorem State.skipIf_pixel (c : Bool) (px py : Nat) : (s.skipIf c).pixel px py = s.pixel px py := rfl

/-! The reset state. -/

@[simp] theorem State.reset_reg (r : Nibble) : State.reset.reg r = 0 := by
  simp [State.reg, State.reset]

@[simp] theorem State.reset_mem : State.reset.mem = [] := rfl

@[simp] theorem State.reset_fault : State.reset.fault = none := rfl

@[simp] theorem State.reset_kws : State.reset.kws = .idle := rfl

end Sys2Proof.Machine
end

