-- ==== Sys2Proof/Laws/Registers.lean ====
section
/-! SUPPORT. The laws of the register file and of the call stack. -/

namespace Sys2Proof.Machine

variable (s : State)

/-- A register write (R20): the register written holds the byte, every other is unchanged. -/
theorem State.reg_setReg (r : Nibble) (b : Byte) (q : Nibble) :
    (s.setReg r b).reg q = if q = r then b else s.reg q := by
  simp only [State.reg, State.setReg, Vector.getElem_set, BitVec.toNat_inj, eq_comm]

@[simp] theorem State.reg_setReg_self (r : Nibble) (b : Byte) : (s.setReg r b).reg r = b := by
  simp [State.reg_setReg]

/-- A result and its flag (R160): `VF` holds the flag, whatever `x` is. -/
theorem State.reg_setRegFlag (x : Nibble) (b f : Byte) (q : Nibble) :
    (s.setRegFlag x b f).reg q = if q = 0xF then f else if q = x then b else s.reg q := by
  simp [State.setRegFlag, State.reg_setReg, flagReg]

theorem State.reg_setRegFlag_flag (x : Nibble) (b f : Byte) : (s.setRegFlag x b f).reg 0xF = f := by
  rw [State.reg_setRegFlag, if_pos rfl]

theorem State.reg_setRegFlag_of_ne {x : Nibble} (h : x ≠ 0xF) (b f : Byte) : (s.setRegFlag x b f).reg x = b := by
  rw [State.reg_setRegFlag, if_neg h, if_pos rfl]

/-- Loading `bs` into the registers from number `k` on (R185). -/
theorem loadRegs_getElem (bs : List Byte) (v : Vector Byte 16) (k q : Nat) (hq : q < 16) :
    (loadRegs v k bs)[q] = if h : k ≤ q ∧ q < k + bs.length then bs[q - k]'(by omega) else v[q] := by
  induction bs generalizing v k with
  | nil => simp [loadRegs]
  | cons b bs ih =>
    rw [loadRegs, ih]
    by_cases hk : q = k
    · subst hk; simp
    · by_cases hr : k ≤ q ∧ q < k + (b :: bs).length
      · have h1 : k + 1 ≤ q ∧ q < k + 1 + bs.length := by simp at hr; omega
        rw [dif_pos h1, dif_pos hr]
        have : q - k = (q - (k + 1)) + 1 := by omega
        simp [this]
      · have h1 : ¬ (k + 1 ≤ q ∧ q < k + 1 + bs.length) := by simp at hr; omega
        simp only [h1, hr, dite_false]
        rw [Vector.getElem_setIfInBounds]
        simp [Ne.symm hk]

/-- A bulk load (R187): register `q` takes byte `q`, registers past the bytes are unchanged. -/
theorem State.reg_setRegs (bs : List Byte) (q : Nibble) :
    (s.setRegs bs).reg q = if h : q.toNat < bs.length then bs[q.toNat] else s.reg q := by
  simp [State.setRegs, State.reg, loadRegs_getElem]

@[simp] theorem State.lowRegs_length (x : Nibble) : (s.lowRegs x).length = x.toNat + 1 := by
  have := x.isLt
  simp [State.lowRegs]; omega

/-- The bytes of a bulk store are the registers in order (R186). -/
@[simp] theorem State.lowRegs_getElem (x : Nibble) (k : Nat) (h : k < (s.lowRegs x).length) :
    (s.lowRegs x)[k] = s.reg (BitVec.ofNat 4 k) := by
  have hx := x.isLt
  have hk : k < 16 := by simp at h; omega
  simp [State.lowRegs, State.reg, Nat.mod_eq_of_lt hk]

/-! The call stack (R25). -/

/-- Everything a push can do: it answers below 16 entries, writes the entry at `SP`, raises `SP` by one and changes
nothing else. -/
theorem State.push_spec (w : Word) :
    if h : s.sp.val < 16 then
      s.push w = some { s with stack := s.stack.set s.sp.val w, sp := ⟨s.sp.val + 1, by omega⟩ }
    else s.push w = none := by
  unfold State.push; split <;> rfl

/-- Everything a pop can do: it answers on a stack in use, gives the entry below `SP`, lowers `SP` by one and changes
nothing else. -/
theorem State.pop_spec :
    if _h : s.sp.val = 0 then s.pop = none
    else s.pop = some (s.stack[s.sp.val - 1], { s with sp := ⟨s.sp.val - 1, by omega⟩ }) := by
  unfold State.pop; split <;> rfl

theorem State.push_eq_none_iff (w : Word) : s.push w = none ↔ s.sp.val = 16 := by
  unfold State.push
  split <;> simp <;> omega

theorem State.pop_eq_none_iff : s.pop = none ↔ s.sp.val = 0 := by
  unfold State.pop
  split <;> simp_all

end Sys2Proof.Machine
end

