-- ==== Sys2Proof/Laws/Operands.lean ====
section
/-! SUPPORT. The laws of the operand forms and of the flag computations. -/

namespace Sys2Proof.Machine

variable (s : State)

@[simp] theorem addrWord_toNat (nnn : Addr12) : (addrWord nnn).toNat = nnn.toNat := by
  have := nnn.isLt
  simp [addrWord]; omega

@[simp] theorem byteWord_toNat (b : Byte) : (byteWord b).toNat = b.toNat := by
  have := b.isLt
  simp [byteWord]; omega

@[simp] theorem glyphAddr_toNat (b : Byte) : (glyphAddr b).toNat = 5 * b.toNat := by
  have := b.isLt
  simp [glyphAddr]; omega

theorem State.npc_toNat : s.npc.toNat = (s.pc.toNat + 2) % 65536 := by simp [State.npc]

@[simp] theorem State.npc_sub_two : s.npc - 2#16 = s.pc := by
  simp [State.npc]

theorem State.npc_eq : s.npc = s.pc + 2 := rfl

/-- When a data range is in memory (R64). -/
theorem State.dataFault_eq (m : Nat) :
    s.dataFault m = if m = 0 ∨ s.i.toNat + m ≤ 4096 then none else some (.dataAddressOutOfBounds s.i) := by
  unfold State.dataFault
  by_cases h : m = 0 ∨ s.i.toNat + m ≤ 4096
  · rw [if_neg (by simp; omega), if_pos h]
  · rw [if_pos (by simp; omega), if_neg h]

/-- When a key index is in the keypad (R220). -/
theorem keyFault_eq (k : Byte) : keyFault k = if k.toNat ≤ 15 then none else some (.keyIndexOutOfRange k) := by
  unfold keyFault
  by_cases h : k.toNat ≤ 15
  · rw [if_neg (by omega), if_pos h]
  · rw [if_pos (by omega), if_neg h]

theorem keyNumber_toNat (k : Byte) (h : k.toNat ≤ 15) : (keyNumber k).toNat = k.toNat := by
  simp [keyNumber]; omega

/-- The least key held (R222): it is held and no key below it is. -/
theorem State.leastHeld_eq_some_iff (k : Nibble) :
    s.leastHeld = some k ↔ s.keyHeld k = true ∧ ∀ j : Nibble, j.toNat < k.toNat → s.keyHeld j = false := by
  have hk := k.isLt
  unfold State.leastHeld
  rw [List.find?_map, Option.map_eq_some_iff]
  constructor
  · rintro ⟨n, hn, rfl⟩
    rw [List.find?_range_eq_some] at hn
    obtain ⟨h1, h2, h3⟩ := hn
    simp at h2
    refine ⟨h1, fun j hj => ?_⟩
    have := h3 j.toNat (by simpa [Nat.mod_eq_of_lt h2] using hj)
    simpa using this
  · rintro ⟨h1, h2⟩
    refine ⟨k.toNat, ?_, by simp⟩
    rw [List.find?_range_eq_some]
    refine ⟨by simpa using h1, by simpa using hk, fun j hj => ?_⟩
    have := h2 (BitVec.ofNat 4 j) (by simp; omega)
    simp [this]

/-- No key held (R222). -/
theorem State.leastHeld_eq_none_iff : s.leastHeld = none ↔ ∀ k : Nibble, s.keyHeld k = false := by
  unfold State.leastHeld
  rw [List.find?_eq_none]
  constructor
  · intro h k
    have := h k (by simp; exact ⟨k.toNat, k.isLt, by simp⟩)
    simpa using this
  · intro h k _
    simp [h]

/-- The decimal digits have the value of the byte (R184). -/
theorem bcdDigits_getElem (b : Byte) :
    ∃ h : (bcdDigits b).length = 3,
      (bcdDigits b)[0].toNat = b.toNat / 100 ∧ (bcdDigits b)[1].toNat = b.toNat / 10 % 10 ∧
      (bcdDigits b)[2].toNat = b.toNat % 10 := by
  have := b.isLt
  refine ⟨rfl, ?_, ?_, ?_⟩ <;> simp [bcdDigits] <;> omega

/-! The flags (R21): each is `0x00` or `0x01`. -/

@[simp] theorem flagByte_toNat (c : Bool) : (flagByte c).toNat = if c then 1 else 0 := by cases c <;> rfl

theorem carryFlag_eq (a b : Byte) : carryFlag a b = if 255 < a.toNat + b.toNat then 1 else 0 := by
  simp [carryFlag, flagByte]

theorem noBorrowFlag_eq (a b : Byte) : noBorrowFlag a b = if b.toNat ≤ a.toNat then 1 else 0 := by
  simp [noBorrowFlag, flagByte]

theorem shiftRightFlag_toNat (b : Byte) : (shiftRightFlag b).toNat = b.toNat % 2 := by
  revert b; decide

theorem shiftLeftFlag_toNat (b : Byte) : (shiftLeftFlag b).toNat = b.toNat / 128 := by
  revert b; decide

end Sys2Proof.Machine
end

