-- ==== Sys2Proof/Laws/Cycle.lean ====
section
/-! SUPPORT. The laws of the cycle: what fetch and decode answer, that every instruction answers a next state, and
everything a step can do. -/

namespace Sys2Proof.Machine

variable (s : State)

/-- The word the fetch reads is the one at `pc` (R63, R121). -/
theorem wordOfBytes_eq_wordAtPc :
    wordOfBytes (s.mem.read s.pc.toNat) (s.mem.read (s.pc.toNat + 1)) = wordAtPc s := by
  apply BitVec.eq_of_toNat_eq
  have h := (s.mem.read s.pc.toNat).isLt
  have l := (s.mem.read (s.pc.toNat + 1)).isLt
  rw [wordOfBytes_toNat, wordAtPc, BitVec.toNat_ofNat]
  omega

/-- A rejected word is rejected by its own value (R100). -/
theorem decode_error {w : Word} {r : Reject} (h : decode w = .error r) : r = .invalidOpcode w := by
  unfold decode decodeGroup0 decodeGroup8 decodeGroupE decodeGroupF at h
  split at h <;> (try split at h) <;> first | exact (Except.error.inj h).symm | cases h

/-- Everything fetch and decode can answer (R121, R122). -/
theorem fetchInstr_cases :
    (4096 ≤ s.pc.toNat + 1 ∧ fetchInstr s = .error (.fetchOutOfBounds s.pc)) ∨
    (s.pc.toNat + 1 < 4096 ∧ decode (wordAtPc s) = .error (.invalidOpcode (wordAtPc s)) ∧
      fetchInstr s = .error (.invalidOpcode (wordAtPc s))) ∨
    ∃ i, AtPc s i ∧ fetchInstr s = .ok i := by
  unfold fetchInstr fetch
  by_cases h : s.pc.toNat + 1 < 4096
  · rw [if_pos h, wordOfBytes_eq_wordAtPc]
    cases hd : decode (wordAtPc s) with
    | ok i => exact .inr (.inr ⟨i, ⟨h, hd⟩, by simp [hd]⟩)
    | error r => exact .inr (.inl ⟨h, by rw [decode_error hd], by simp [hd]⟩)
  · exact .inl ⟨by omega, by rw [if_neg h]⟩

/-- The instruction of this cycle is the one at `pc` (R121, R122). -/
theorem fetchInstr_of_atPc {i : Instr} (h : AtPc s i) : fetchInstr s = .ok i := by
  have hf : fetch s = .ok (wordAtPc s) := by rw [fetch, if_pos h.1, wordOfBytes_eq_wordAtPc]
  simp only [fetchInstr, hf, h.2]

theorem AtPc.unique {s : State} {i j : Instr} (hi : AtPc s i) (hj : AtPc s j) : i = j :=
  Except.ok.inj (hi.2.symm.trans hj.2)

/-- No instruction answers anything but a next state (R123, R244). -/
theorem exec_next (i : Instr) : ∃ t, exec i s = .next t := by
  cases i <;> first
    | exact ⟨_, rfl⟩
    | simp only [exec, execRet, execCall, execLdB, execStRegs, execLdRegs, execDrw, execSkp, execSknp]
      split <;> exact ⟨_, rfl⟩

/-- Everything a step can do (R120, R127): a halted core is unchanged; a running one latches the fault of its fetch or
decode, or executes the instruction at `pc` and, if that raised no fault, ends the cycle. -/
theorem step_cases :
    (∃ f, s.fault = some f ∧ step s = .next s) ∨
    (s.fault = none ∧ ∃ f, fetchInstr s = .error f ∧ step s = .next (s.raise f)) ∨
    (s.fault = none ∧ ∃ i t, AtPc s i ∧ exec i s = .next t ∧
      ((t.fault = none ∧ step s = .next (t.endCycle (draws i))) ∨
       ∃ f, t.fault = some f ∧ step s = .next t)) := by
  unfold step cycle
  cases hs : s.fault with
  | some f => exact .inl ⟨f, rfl, rfl⟩
  | none =>
    refine .inr ?_
    rcases fetchInstr_cases s with ⟨_, h⟩ | ⟨_, _, h⟩ | ⟨i, hi, h⟩
    · exact .inl ⟨rfl, _, h, by rw [h]⟩
    · exact .inl ⟨rfl, _, h, by rw [h]⟩
    · obtain ⟨t, ht⟩ := exec_next s i
      refine .inr ⟨rfl, i, t, hi, ht, ?_⟩
      simp only [h, ht, finish]
      cases hf : t.fault with
      | none => exact .inl ⟨rfl, rfl⟩
      | some f => exact .inr ⟨f, rfl, rfl⟩

/-- A step of a running core whose instruction raised no fault (R120, R124 to R126). -/
theorem step_of_exec {i : Instr} {t : State} (hs : s.fault = none) (hi : AtPc s i) (ht : exec i s = .next t)
    (hf : t.fault = none) : step s = .next (t.endCycle (draws i)) := by
  simp only [step, cycle, hs, fetchInstr_of_atPc s hi, ht, finish, hf]

/-- A step of a running core whose instruction raised a fault (R127). -/
theorem step_of_exec_fault {i : Instr} {t : State} {f : Fault} (hs : s.fault = none) (hi : AtPc s i)
    (ht : exec i s = .next t) (hf : t.fault = some f) : step s = .next t := by
  simp only [step, cycle, hs, fetchInstr_of_atPc s hi, ht, finish, hf]

theorem draws_eq_true_iff (i : Instr) : draws i = true ↔ i = .cls ∨ ∃ x y n, i = .drw x y n := by
  cases i <;> simp [draws]

theorem tickTimer_toNat (b : Byte) : (tickTimer b).toNat = b.toNat - 1 := by
  revert b; decide

end Sys2Proof.Machine
end

