-- ==== Sys2Proof/Laws/Display.lean ====
section
/-! SUPPORT. The laws of the blit: which pixels a list inverts, and when it reports a collision. -/

namespace Sys2Proof.Machine

/-- One pixel of a framebuffer held by rows. -/
def fbPixel (fb : Vector (BitVec 64) 32) (px py : Nat) : Bool := (fb.getD py 0).getLsbD px

theorem State.pixel_eq (s : State) (px py : Nat) : s.pixel px py = fbPixel s.fb px py := rfl

theorem fb_getD_eq (fb : Vector (BitVec 64) 32) (py : Nat) :
    fb.getD py 0 = if h : py < 32 then fb[py] else 0 := by
  by_cases h : py < 32 <;> simp [Vector.getD, h]

/-- Inverting one pixel on the screen (R201). -/
theorem fbPixel_xorPixel (d : Vector (BitVec 64) 32 × Bool) (p : Nat × Nat) (hp : p.1 < 64 ∧ p.2 < 32) (px py : Nat) :
    fbPixel (xorPixel d p).1 px py = (fbPixel d.1 px py ^^ decide (p = (px, py))) := by
  obtain ⟨a, b⟩ := p
  simp only at hp
  simp only [fbPixel, xorPixel, fb_getD_eq]
  by_cases hy : py < 32
  · simp only [hy, dite_true, hp.2, Vector.getElem_setIfInBounds]
    by_cases hb : b = py
    · subst hb
      simp only [if_true, BitVec.getLsbD_xor, BitVec.getLsbD_twoPow]
      congr 1
      by_cases ha : a = px
      · subst ha; simp [hp.1]
      · simp [ha]
    · simp [hb]
  · have : (a, b) ≠ (px, py) := by
      intro h; injection h with _ h; omega
    simp [hy, this]

theorem xorPixel_snd (d : Vector (BitVec 64) 32 × Bool) (p : Nat × Nat) :
    (xorPixel d p).2 = (d.2 || fbPixel d.1 p.1 p.2) := rfl

/-- Everything a blit of pixels without repeats can do (R201, R202 (e)): it inverts exactly those pixels, and it reports a
collision exactly when one of them was set. -/
theorem foldl_xorPixel (ps : List (Nat × Nat)) (d : Vector (BitVec 64) 32 × Bool) (hp : ∀ p ∈ ps, p.1 < 64 ∧ p.2 < 32)
    (hn : ps.Nodup) :
    (∀ px py, fbPixel (ps.foldl xorPixel d).1 px py = (fbPixel d.1 px py ^^ decide ((px, py) ∈ ps))) ∧
    (ps.foldl xorPixel d).2 = (d.2 || ps.any fun p => fbPixel d.1 p.1 p.2) := by
  induction ps generalizing d with
  | nil => simp
  | cons p ps ih =>
    have hq := List.nodup_cons.mp hn
    obtain ⟨h1, h2⟩ := ih (xorPixel d p) (fun q hq => hp q (List.mem_cons_of_mem _ hq)) hq.2
    have hpp := hp p List.mem_cons_self
    constructor
    · intro px py
      rw [List.foldl_cons, h1, fbPixel_xorPixel _ _ hpp]
      by_cases he : p = (px, py)
      · subst he; simp [hq.1]
      · simp [he, Ne.symm he]
    · rw [List.foldl_cons, h2, xorPixel_snd, List.any_cons, Bool.or_assoc]
      congr 2
      rw [Bool.eq_iff_iff]
      simp only [List.any_eq_true]
      refine exists_congr fun q => and_congr_right fun hqm => ?_
      rw [fbPixel_xorPixel _ _ hpp]
      have : p ≠ (q.1, q.2) := fun h => hq.1 (by rw [h]; exact hqm)
      simp [this]

/-- Which pixels one sprite row inverts (R201). -/
theorem mem_rowPixels (b : Byte) (x0 py : Nat) (p : Nat × Nat) :
    p ∈ rowPixels b x0 py ↔
      p.2 = py ∧ py < 32 ∧ p.1 < 64 ∧ x0 ≤ p.1 ∧ p.1 < x0 + 8 ∧ b.getLsbD (7 - (p.1 - x0)) = true := by
  obtain ⟨a, c⟩ := p
  simp only [rowPixels, List.mem_map, List.mem_filter, List.mem_range, Bool.and_eq_true, decide_eq_true_eq,
    Prod.mk.injEq, Config.spriteWidth, Config.fbWidth, Config.fbHeight]
  constructor
  · rintro ⟨col, ⟨h1, ⟨h2, h3⟩, h4⟩, rfl, rfl⟩
    refine ⟨rfl, h4, h3, by omega, by omega, ?_⟩
    rwa [Nat.add_sub_cancel_left]
  · rintro ⟨rfl, h1, h2, h3, h4, h5⟩
    exact ⟨a - x0, ⟨by omega, ⟨h5, by omega⟩, h1⟩, by omega, rfl⟩

theorem rowPixels_nodup (b : Byte) (x0 py : Nat) : (rowPixels b x0 py).Nodup := by
  refine List.Nodup.map ?_ (List.nodup_range.filter _)
  intro a c h
  injection h with h
  omega

/-- Which pixels a sprite inverts (R201, R202 (a)). -/
theorem mem_spritePixels (bs : List Byte) (x0 y0 : Nat) (p : Nat × Nat) :
    p ∈ spritePixels x0 y0 bs ↔
      ∃ k, ∃ h : k < bs.length, p.2 = y0 + k ∧ y0 + k < 32 ∧ p.1 < 64 ∧ x0 ≤ p.1 ∧ p.1 < x0 + 8 ∧
        bs[k].getLsbD (7 - (p.1 - x0)) = true := by
  induction bs generalizing y0 with
  | nil => simp [spritePixels]
  | cons b bs ih =>
    rw [spritePixels, List.mem_append, mem_rowPixels, ih]
    constructor
    · rintro (h | ⟨k, hk, h⟩)
      · exact ⟨0, by simp, by simpa using h⟩
      · refine ⟨k + 1, by simpa using hk, ?_⟩
        simpa [Nat.add_assoc, Nat.add_comm 1] using h
    · rintro ⟨k, hk, h⟩
      cases k with
      | zero => exact .inl (by simpa using h)
      | succ k =>
        refine .inr ⟨k, by simpa using hk, ?_⟩
        simpa [Nat.add_assoc, Nat.add_comm 1] using h

theorem spritePixels_onScreen (bs : List Byte) (x0 y0 : Nat) : ∀ p ∈ spritePixels x0 y0 bs, p.1 < 64 ∧ p.2 < 32 := by
  intro p hp
  obtain ⟨k, hk, h1, h2, h3, _⟩ := (mem_spritePixels bs x0 y0 p).mp hp
  exact ⟨h3, h1 ▸ h2⟩

/-- No pixel of a sprite is touched twice (R202 (e)). -/
theorem spritePixels_nodup (bs : List Byte) (x0 y0 : Nat) : (spritePixels x0 y0 bs).Nodup := by
  induction bs generalizing y0 with
  | nil => exact List.nodup_nil
  | cons b bs ih =>
    refine List.Nodup.append (rowPixels_nodup b x0 y0) (ih (y0 + 1)) ?_
    intro p hp hq
    have h1 := ((mem_rowPixels b x0 y0 p).mp hp).1
    obtain ⟨k, _, h2, _⟩ := (mem_spritePixels bs x0 (y0 + 1) p).mp hq
    omega

/-- Everything the blit of a sprite can do (R201): each pixel of it is inverted, every other is unchanged, and it collides
exactly when one of its pixels was set. -/
theorem blit_sprite (fb : Vector (BitVec 64) 32) (x0 y0 : Nat) (bs : List Byte) :
    (∀ px py, fbPixel (blit fb (spritePixels x0 y0 bs)).1 px py =
      (fbPixel fb px py ^^ decide ((px, py) ∈ spritePixels x0 y0 bs))) ∧
    (blit fb (spritePixels x0 y0 bs)).2 = (spritePixels x0 y0 bs).any fun p => fbPixel fb p.1 p.2 := by
  have := foldl_xorPixel _ (fb, false) (spritePixels_onScreen bs x0 y0) (spritePixels_nodup bs x0 y0)
  simpa [blit] using this

end Sys2Proof.Machine
end

