-- ==== Sys2Proof/Laws/PerInstr.lean ====
section
/-! SUPPORT. Statements made for every instruction as syntax, one lemma per constructor. -/

namespace Sys2Proof.Laws.EncodesRow

/-- The word the encoder gives an instruction matches the instruction's own row of the opcode map (R94, R96). -/
def Statement (i : Instr) : Prop := i.row.covers (encode i) = true

/-- The masks of the opcode map, in nibbles (R92). -/
theorem mask_words : (0xF000 : Word) = wordXYN 0xF 0 0 0 ∧ (0xF00F : Word) = wordXYN 0xF 0 0 0xF ∧
    (0xF0FF : Word) = wordXYN 0xF 0 0xF 0xF := by decide

theorem cls : Statement .cls := by
  unfold Statement; decide

theorem ret : Statement .ret := by
  unfold Statement; decide

theorem jp (nnn : Addr12) : Statement (.jp nnn) := by
  simp only [Statement, Row.covers, Instr.row, encode, wordNNN_eq, mask_words.1, wordXYN_and, beq_iff_eq,
    Nibble.and_0, Nibble.and_F]
  decide

theorem call (nnn : Addr12) : Statement (.call nnn) := by
  simp only [Statement, Row.covers, Instr.row, encode, wordNNN_eq, mask_words.1, wordXYN_and, beq_iff_eq,
    Nibble.and_0, Nibble.and_F]
  decide

theorem se (x : Nibble) (nn : Byte) : Statement (.se x nn) := by
  simp only [Statement, Row.covers, Instr.row, encode, wordXNN_eq, mask_words.1, wordXYN_and, beq_iff_eq,
    Nibble.and_0, Nibble.and_F]
  decide

theorem sne (x : Nibble) (nn : Byte) : Statement (.sne x nn) := by
  simp only [Statement, Row.covers, Instr.row, encode, wordXNN_eq, mask_words.1, wordXYN_and, beq_iff_eq,
    Nibble.and_0, Nibble.and_F]
  decide

theorem seReg (x : Nibble) (y : Nibble) : Statement (.seReg x y) := by
  simp only [Statement, Row.covers, Instr.row, encode, mask_words.1, wordXYN_and, beq_iff_eq,
    Nibble.and_0, Nibble.and_F]
  decide

theorem sneReg (x : Nibble) (y : Nibble) : Statement (.sneReg x y) := by
  simp only [Statement, Row.covers, Instr.row, encode, mask_words.1, wordXYN_and, beq_iff_eq,
    Nibble.and_0, Nibble.and_F]
  decide

theorem ldImm (x : Nibble) (nn : Byte) : Statement (.ldImm x nn) := by
  simp only [Statement, Row.covers, Instr.row, encode, wordXNN_eq, mask_words.1, wordXYN_and, beq_iff_eq,
    Nibble.and_0, Nibble.and_F]
  decide

theorem addImm (x : Nibble) (nn : Byte) : Statement (.addImm x nn) := by
  simp only [Statement, Row.covers, Instr.row, encode, wordXNN_eq, mask_words.1, wordXYN_and, beq_iff_eq,
    Nibble.and_0, Nibble.and_F]
  decide

theorem ldReg (x : Nibble) (y : Nibble) : Statement (.ldReg x y) := by
  simp only [Statement, Row.covers, Instr.row, encode, mask_words.2.1, wordXYN_and, beq_iff_eq,
    Nibble.and_0, Nibble.and_F]
  decide

theorem orReg (x : Nibble) (y : Nibble) : Statement (.orReg x y) := by
  simp only [Statement, Row.covers, Instr.row, encode, mask_words.2.1, wordXYN_and, beq_iff_eq,
    Nibble.and_0, Nibble.and_F]
  decide

theorem andReg (x : Nibble) (y : Nibble) : Statement (.andReg x y) := by
  simp only [Statement, Row.covers, Instr.row, encode, mask_words.2.1, wordXYN_and, beq_iff_eq,
    Nibble.and_0, Nibble.and_F]
  decide

theorem xorReg (x : Nibble) (y : Nibble) : Statement (.xorReg x y) := by
  simp only [Statement, Row.covers, Instr.row, encode, mask_words.2.1, wordXYN_and, beq_iff_eq,
    Nibble.and_0, Nibble.and_F]
  decide

theorem addReg (x : Nibble) (y : Nibble) : Statement (.addReg x y) := by
  simp only [Statement, Row.covers, Instr.row, encode, mask_words.2.1, wordXYN_and, beq_iff_eq,
    Nibble.and_0, Nibble.and_F]
  decide

theorem sub (x : Nibble) (y : Nibble) : Statement (.sub x y) := by
  simp only [Statement, Row.covers, Instr.row, encode, mask_words.2.1, wordXYN_and, beq_iff_eq,
    Nibble.and_0, Nibble.and_F]
  decide

theorem shr (x : Nibble) (y : Nibble) : Statement (.shr x y) := by
  simp only [Statement, Row.covers, Instr.row, encode, mask_words.2.1, wordXYN_and, beq_iff_eq,
    Nibble.and_0, Nibble.and_F]
  decide

theorem subn (x : Nibble) (y : Nibble) : Statement (.subn x y) := by
  simp only [Statement, Row.covers, Instr.row, encode, mask_words.2.1, wordXYN_and, beq_iff_eq,
    Nibble.and_0, Nibble.and_F]
  decide

theorem shl (x : Nibble) (y : Nibble) : Statement (.shl x y) := by
  simp only [Statement, Row.covers, Instr.row, encode, mask_words.2.1, wordXYN_and, beq_iff_eq,
    Nibble.and_0, Nibble.and_F]
  decide

theorem ldI (nnn : Addr12) : Statement (.ldI nnn) := by
  simp only [Statement, Row.covers, Instr.row, encode, wordNNN_eq, mask_words.1, wordXYN_and, beq_iff_eq,
    Nibble.and_0, Nibble.and_F]
  decide

theorem jpV0 (nnn : Addr12) : Statement (.jpV0 nnn) := by
  simp only [Statement, Row.covers, Instr.row, encode, wordNNN_eq, mask_words.1, wordXYN_and, beq_iff_eq,
    Nibble.and_0, Nibble.and_F]
  decide

theorem rnd (x : Nibble) (nn : Byte) : Statement (.rnd x nn) := by
  simp only [Statement, Row.covers, Instr.row, encode, wordXNN_eq, mask_words.1, wordXYN_and, beq_iff_eq,
    Nibble.and_0, Nibble.and_F]
  decide

theorem drw (x : Nibble) (y : Nibble) (n : Nibble) : Statement (.drw x y n) := by
  simp only [Statement, Row.covers, Instr.row, encode, mask_words.1, wordXYN_and, beq_iff_eq,
    Nibble.and_0, Nibble.and_F]
  decide

theorem skp (x : Nibble) : Statement (.skp x) := by
  simp only [Statement, Row.covers, Instr.row, encode, wordXNN_eq, mask_words.2.2, wordXYN_and, beq_iff_eq,
    Nibble.and_0, Nibble.and_F]
  decide

theorem sknp (x : Nibble) : Statement (.sknp x) := by
  simp only [Statement, Row.covers, Instr.row, encode, wordXNN_eq, mask_words.2.2, wordXYN_and, beq_iff_eq,
    Nibble.and_0, Nibble.and_F]
  decide

theorem ldVxDt (x : Nibble) : Statement (.ldVxDt x) := by
  simp only [Statement, Row.covers, Instr.row, encode, wordXNN_eq, mask_words.2.2, wordXYN_and, beq_iff_eq,
    Nibble.and_0, Nibble.and_F]
  decide

theorem ldVxK (x : Nibble) : Statement (.ldVxK x) := by
  simp only [Statement, Row.covers, Instr.row, encode, wordXNN_eq, mask_words.2.2, wordXYN_and, beq_iff_eq,
    Nibble.and_0, Nibble.and_F]
  decide

theorem ldDtVx (x : Nibble) : Statement (.ldDtVx x) := by
  simp only [Statement, Row.covers, Instr.row, encode, wordXNN_eq, mask_words.2.2, wordXYN_and, beq_iff_eq,
    Nibble.and_0, Nibble.and_F]
  decide

theorem ldStVx (x : Nibble) : Statement (.ldStVx x) := by
  simp only [Statement, Row.covers, Instr.row, encode, wordXNN_eq, mask_words.2.2, wordXYN_and, beq_iff_eq,
    Nibble.and_0, Nibble.and_F]
  decide

theorem addI (x : Nibble) : Statement (.addI x) := by
  simp only [Statement, Row.covers, Instr.row, encode, wordXNN_eq, mask_words.2.2, wordXYN_and, beq_iff_eq,
    Nibble.and_0, Nibble.and_F]
  decide

theorem ldF (x : Nibble) : Statement (.ldF x) := by
  simp only [Statement, Row.covers, Instr.row, encode, wordXNN_eq, mask_words.2.2, wordXYN_and, beq_iff_eq,
    Nibble.and_0, Nibble.and_F]
  decide

theorem ldB (x : Nibble) : Statement (.ldB x) := by
  simp only [Statement, Row.covers, Instr.row, encode, wordXNN_eq, mask_words.2.2, wordXYN_and, beq_iff_eq,
    Nibble.and_0, Nibble.and_F]
  decide

theorem stRegs (x : Nibble) : Statement (.stRegs x) := by
  simp only [Statement, Row.covers, Instr.row, encode, wordXNN_eq, mask_words.2.2, wordXYN_and, beq_iff_eq,
    Nibble.and_0, Nibble.and_F]
  decide

theorem ldRegs (x : Nibble) : Statement (.ldRegs x) := by
  simp only [Statement, Row.covers, Instr.row, encode, wordXNN_eq, mask_words.2.2, wordXYN_and, beq_iff_eq,
    Nibble.and_0, Nibble.and_F]
  decide

end Sys2Proof.Laws.EncodesRow
end

