-- ==== Sys2Proof/Laws/Ports.lean ====
section
/-! SUPPORT. The laws of the host's operations: what a load does to the core, and what load and step can answer. -/

namespace Sys2Proof.Machine

/-- A program that fits is copied (R69). -/
theorem State.placeProgram_of_le (s : State) {bytes : List Byte} (h : bytes.length ≤ 3584) :
    s.placeProgram bytes = s.setMem (s.mem.writeBytes 0x200 bytes) := if_pos h

/-- A program too long writes nothing (R246). -/
theorem State.placeProgram_of_lt (s : State) {bytes : List Byte} (h : 3584 < bytes.length) :
    s.placeProgram bytes = s.raise (.programTooLarge bytes.length) := if_neg (Nat.not_le.mpr h)

/-- Everything a load can do (R282): it has a meaning exactly on a fresh session. -/
theorem load_eq_next_iff (bytes : List Byte) (h h' : Session) :
    load bytes h = .next h' ↔ ∃ s, h = .fresh s ∧ h' = .loaded (s.placeProgram bytes) := by
  cases h <;> simp [load, eq_comm]

/-- The boot sequence is the reset and the one load (R282). -/
theorem load_reset_absent (bytes : List Byte) : load bytes Session.absent.reset = .next (.loaded (boot bytes)) := rfl

/-- A step of the core with supplied inputs answers a next state (R120). -/
theorem stepWith_next (keys : BitVec 16) (rnd : Byte) (s : State) : ∃ t, stepWith keys rnd s = .next t := by
  rcases step_cases (supply keys rnd s) with ⟨_, _, h⟩ | ⟨_, _, _, h⟩ | ⟨_, _, _, _, _, ⟨_, h⟩ | ⟨_, _, h⟩⟩ <;>
    exact ⟨_, h⟩

end Sys2Proof.Machine
end

