-- ==== Sys2Proof/Tests/Slice0.lean ====
section
/-! SUPPORT. The model's own tests: words written out from the encodings of 30_encoding.md, one step on small states with
results from 95_test_vectors.md, and a witness for the hypotheses of each statement. -/

namespace Sys2Proof.Tests

open Sys2Proof.Machine

/-- The state a step answers, if it answers one. -/
def stepTo (s : State) : Option State :=
  match step s with
  | .next t => some t
  | .fault _ => none
  | .refused _ => none

/-- `s` about to run the word `w` at its `pc`. -/
def run (s : State) (w : Nat) : Option State := stepTo (s.withFetchWord 16 w)

/-- Reset with `V1 = a`, `V2 = b`, `VF = f`. -/
def regs (a b f : Byte) : State := ((State.reset.setReg 0x1 a).setReg 0x2 b).setReg 0xF f

/-- Reset with `V0..V3 = 11 22 33 44`. -/
def quad : State := (((State.reset.setReg 0x0 0x11).setReg 0x1 0x22).setReg 0x2 0x33).setReg 0x3 0x44

/-! Decoding: a word of each instruction, written out from rule R96. -/

theorem test_decode_cls : decode 0x00E0 = .ok .cls ∧ encode .cls = 0x00E0 := by decide

theorem test_decode_ret : decode 0x00EE = .ok .ret ∧ encode .ret = 0x00EE := by decide

theorem test_decode_jp : decode 0x1234 = .ok (.jp 0x234) ∧ encode (.jp 0x234) = 0x1234 := by decide

theorem test_decode_call : decode 0x2FFF = .ok (.call 0xFFF) ∧ encode (.call 0xFFF) = 0x2FFF := by decide

theorem test_decode_se : decode 0x3A7F = .ok (.se 0xA 0x7F) ∧ encode (.se 0xA 0x7F) = 0x3A7F := by decide

theorem test_decode_sne : decode 0x4B00 = .ok (.sne 0xB 0x00) ∧ encode (.sne 0xB 0x00) = 0x4B00 := by decide

theorem test_decode_seReg : decode 0x5120 = .ok (.seReg 0x1 0x2) ∧ encode (.seReg 0x1 0x2) = 0x5120 := by decide

theorem test_decode_sneReg : decode 0x9120 = .ok (.sneReg 0x1 0x2) ∧ encode (.sneReg 0x1 0x2) = 0x9120 := by decide

theorem test_decode_ldImm : decode 0x6005 = .ok (.ldImm 0x0 0x05) ∧ encode (.ldImm 0x0 0x05) = 0x6005 := by decide

theorem test_decode_addImm : decode 0x7105 = .ok (.addImm 0x1 0x05) ∧ encode (.addImm 0x1 0x05) = 0x7105 := by decide

theorem test_decode_ldReg : decode 0x8120 = .ok (.ldReg 0x1 0x2) ∧ encode (.ldReg 0x1 0x2) = 0x8120 := by decide

theorem test_decode_orReg : decode 0x8121 = .ok (.orReg 0x1 0x2) ∧ encode (.orReg 0x1 0x2) = 0x8121 := by decide

theorem test_decode_andReg : decode 0x8122 = .ok (.andReg 0x1 0x2) ∧ encode (.andReg 0x1 0x2) = 0x8122 := by decide

theorem test_decode_xorReg : decode 0x8123 = .ok (.xorReg 0x1 0x2) ∧ encode (.xorReg 0x1 0x2) = 0x8123 := by decide

theorem test_decode_addReg : decode 0x8124 = .ok (.addReg 0x1 0x2) ∧ encode (.addReg 0x1 0x2) = 0x8124 := by decide

theorem test_decode_sub : decode 0x8125 = .ok (.sub 0x1 0x2) ∧ encode (.sub 0x1 0x2) = 0x8125 := by decide

theorem test_decode_shr : decode 0x8126 = .ok (.shr 0x1 0x2) ∧ encode (.shr 0x1 0x2) = 0x8126 := by decide

theorem test_decode_subn : decode 0x8127 = .ok (.subn 0x1 0x2) ∧ encode (.subn 0x1 0x2) = 0x8127 := by decide

theorem test_decode_shl : decode 0x812E = .ok (.shl 0x1 0x2) ∧ encode (.shl 0x1 0x2) = 0x812E := by decide

theorem test_decode_ldI : decode 0xA2F0 = .ok (.ldI 0x2F0) ∧ encode (.ldI 0x2F0) = 0xA2F0 := by decide

theorem test_decode_jpV0 : decode 0xB300 = .ok (.jpV0 0x300) ∧ encode (.jpV0 0x300) = 0xB300 := by decide

theorem test_decode_rnd : decode 0xC30F = .ok (.rnd 0x3 0x0F) ∧ encode (.rnd 0x3 0x0F) = 0xC30F := by decide

theorem test_decode_drw : decode 0xDABF = .ok (.drw 0xA 0xB 0xF) ∧ encode (.drw 0xA 0xB 0xF) = 0xDABF := by decide

theorem test_decode_skp : decode 0xE49E = .ok (.skp 0x4) ∧ encode (.skp 0x4) = 0xE49E := by decide

theorem test_decode_sknp : decode 0xE4A1 = .ok (.sknp 0x4) ∧ encode (.sknp 0x4) = 0xE4A1 := by decide

theorem test_decode_ldVxDt : decode 0xF307 = .ok (.ldVxDt 0x3) ∧ encode (.ldVxDt 0x3) = 0xF307 := by decide

theorem test_decode_ldVxK : decode 0xFF0A = .ok (.ldVxK 0xF) ∧ encode (.ldVxK 0xF) = 0xFF0A := by decide

theorem test_decode_ldDtVx : decode 0xF015 = .ok (.ldDtVx 0x0) ∧ encode (.ldDtVx 0x0) = 0xF015 := by decide

theorem test_decode_ldStVx : decode 0xF218 = .ok (.ldStVx 0x2) ∧ encode (.ldStVx 0x2) = 0xF218 := by decide

theorem test_decode_addI : decode 0xF21E = .ok (.addI 0x2) ∧ encode (.addI 0x2) = 0xF21E := by decide

theorem test_decode_ldF : decode 0xF029 = .ok (.ldF 0x0) ∧ encode (.ldF 0x0) = 0xF029 := by decide

theorem test_decode_ldB : decode 0xF033 = .ok (.ldB 0x0) ∧ encode (.ldB 0x0) = 0xF033 := by decide

theorem test_decode_stRegs : decode 0xF355 = .ok (.stRegs 0x3) ∧ encode (.stRegs 0x3) = 0xF355 := by decide

theorem test_decode_ldRegs : decode 0xF165 = .ok (.ldRegs 0x1) ∧ encode (.ldRegs 0x1) = 0xF165 := by decide

/-- R98. -/
theorem test_decode_low_nibble_ignored : decode 0x5121 = .ok (.seReg 0x1 0x2) ∧ decode 0x9125 = .ok (.sneReg 0x1 0x2) := by decide

/-- Section 2.2 of the test vectors. -/
theorem test_decode_invalid_group0 : [0x0000, 0x00E1, 0x00EF, 0x01E0, 0x0FEE, 0x0123].all (fun w => decode w == .error (.invalidOpcode w)) = true := by decide

theorem test_decode_invalid_groups_8EF : [0x8128, 0x812D, 0x812F, 0xE400, 0xE49F, 0xE4A0, 0xF000, 0xF001, 0xF075, 0xF0FF].all
    (fun w => decode w == .error (.invalidOpcode w)) = true := by decide

/-- T-FET-1: big-endian, not 0x3412. -/
theorem test_decode_bytes_big_endian : decodeBytes [0x12, 0x34, 0x56] = .ok (.jp 0x234, [0x56]) := by decide

theorem test_decode_truncated : decodeBytes [0x12] = .error .truncated := by decide

theorem test_decode_table_word : decodeTableWord 16 0x6005 = some (.ldImm 0x0 0x05) ∧ decodeTableWord 16 0x0000 = none := by decide

/-! Well-formedness: a refused word for each check, and what it accepts. -/

theorem test_rows_count : rows.length = 34 := by decide

theorem test_valid_refuses_group0 : validWord 0x0000 = false ∧ validWord 0x01E0 = false ∧ validWord 0x00E0 = true := by decide

theorem test_valid_refuses_group8 : validWord 0x8128 = false ∧ validWord 0x812E = true := by decide

theorem test_valid_refuses_groupE : validWord 0xE400 = false ∧ validWord 0xE49E = true := by decide

theorem test_valid_refuses_groupF : validWord 0xF0FF = false ∧ validWord 0xF065 = true := by decide

theorem test_canonical_refuses_group5 : canonicalWord 0x5121 = false ∧ validWord 0x5121 = true ∧ canonicalWord 0x5120 = true := by decide

theorem test_canonical_refuses_group9 : canonicalWord 0x9125 = false ∧ canonicalWord 0x9120 = true := by decide

theorem test_canonical_refuses_invalid : canonicalWord 0x0123 = false := by decide

/-- No term is ill formed (R93): the field widths are in the type. -/
theorem test_wellFormed : Instr.wellFormed (.drw 0xF 0xF 0xF) = true ∧ Instr.wellFormed .cls = true := by decide

/-! Memory: the canonical form, with an ill-formed memory for each of its checks. -/

theorem test_wf_refuses_unsorted : Memory.wf [(0x301, 1), (0x300, 1)] = false := by decide

theorem test_wf_refuses_repeat : Memory.wf [(0x300, 1), (0x300, 2)] = false := by decide

theorem test_wf_refuses_reset_byte : Memory.wf [(0x000, 0xF0)] = false ∧ Memory.wf [(0x300, 0)] = false := by decide

theorem test_wf_refuses_outside : Memory.wf [(0x1000, 1)] = false ∧ Memory.wf [(0xFFF, 1)] = true := by decide

theorem test_write_reset_byte_unlists : Memory.write [(0x300, 7)] 0x300 0x00 = [] ∧ Memory.write [] 0x000 0xF0 = [] := by decide

theorem test_write_keeps_order : Memory.write [(0x300, 7), (0x302, 9)] 0x301 8 = [(0x300, 7), (0x301, 8), (0x302, 9)] := by decide

/-- T-IDX-5 and R66: the glyph of A. -/
theorem test_font : Memory.readBytes [] 0x032 5 = [0xF0, 0x90, 0xF0, 0x90, 0x90] ∧ font.length = 80 := by decide

/-! Control flow (section 2.3 of the test vectors). -/

/-- T-CF-1. -/
theorem test_jp : (run State.reset 0x1ABC).map (fun t => t.pc) = some 0x0ABC := by decide

/-- T-CF-4. -/
theorem test_call : (run (State.reset.goto 0x0204) 0x2300).map (fun t => (t.stack[0], t.sp, t.pc)) = some (0x0206, 1, 0x0300) := by decide

/-- T-CF-5. -/
theorem test_call_full : (run { State.reset with sp := 16 } 0x2300).map (fun t => (t.fault, t.sp, t.pc)) =
    some (some (.stackOverflow 0x0200), 16, 0x0200) := by decide

/-- T-CF-7. -/
theorem test_ret : (run { State.reset.goto 0x0210 with sp := 1, stack := State.reset.stack.set 0 0x0206 } 0x00EE).map
    (fun t => (t.sp, t.pc, t.stack[0])) = some (0, 0x0206, 0x0206) := by decide

/-- T-CF-8. -/
theorem test_ret_empty : (run State.reset 0x00EE).map (fun t => (t.fault, t.sp, t.pc)) = some (some (.stackUnderflow 0x0200), 0, 0x0200) := by decide

/-- T-CF-9, T-CF-10. -/
theorem test_se : (run (State.reset.setReg 0x3 0x2A) 0x332A).map (fun t => t.pc) = some 0x0204 ∧
    (run (State.reset.setReg 0x3 0x2B) 0x332A).map (fun t => t.pc) = some 0x0202 := by decide

/-- T-CF-11, T-CF-12. -/
theorem test_sne : (run (State.reset.setReg 0x3 0x2A) 0x432A).map (fun t => t.pc) = some 0x0202 ∧
    (run State.reset 0x432A).map (fun t => t.pc) = some 0x0204 := by decide

/-- T-CF-14, T-CF-15. -/
theorem test_seReg : (run (regs 7 7 0) 0x512F).map (fun t => t.pc) = some 0x0204 ∧
    (run (regs 7 8 0) 0x5120).map (fun t => t.pc) = some 0x0202 := by decide

/-- T-CF-17, T-CF-18. -/
theorem test_sneReg : (run (regs 7 8 0) 0x9120).map (fun t => t.pc) = some 0x0204 ∧
    (run (regs 7 7 0) 0x9120).map (fun t => t.pc) = some 0x0202 := by decide

/-- T-CF-20: no wrap at 12 bits. -/
theorem test_jpV0 : (run (State.reset.setReg 0x0 0x02) 0xBFFF).map (fun t => t.pc) = some 0x1001 := by decide

/-! Register load, arithmetic, logic, shift, random (section 2.4). -/

/-- T-ALU-2. -/
theorem test_ldImm : (run State.reset 0x6FFF).map (fun t => (t.reg 0xF, t.pc)) = some (0xFF, 0x0202) := by decide

/-- T-ALU-3. -/
theorem test_addImm : (run (regs 0xFE 0 0) 0x7105).map (fun t => (t.reg 0x1, t.reg 0xF)) = some (0x03, 0x00) := by decide

/-- T-ALU-6. -/
theorem test_ldReg : (run (regs 0 0x9C 1) 0x8120).map (fun t => (t.reg 0x1, t.reg 0xF)) = some (0x9C, 0x01) := by decide

/-- E1. -/
theorem test_or : (run (regs 0xF0 0x0F 1) 0x8121).map (fun t => (t.reg 0x1, t.reg 0xF)) = some (0xFF, 0x00) := by decide

/-- E1, X = F. -/
theorem test_or_flag_is_destination : (run (regs 0xF0 0 0x0F) 0x8F11).map (fun t => t.reg 0xF) = some 0x00 := by decide

/-- E1. -/
theorem test_and : (run (regs 0xF3 0x3F 1) 0x8122).map (fun t => (t.reg 0x1, t.reg 0xF)) = some (0x33, 0x00) := by decide

/-- E1. -/
theorem test_xor : (run (regs 0xFF 0x0F 1) 0x8123).map (fun t => (t.reg 0x1, t.reg 0xF)) = some (0xF0, 0x00) := by decide

/-- E2. -/
theorem test_addReg : (run (regs 0xC8 0x64 0) 0x8124).map (fun t => (t.reg 0x1, t.reg 0xF)) = some (0x2C, 0x01) := by decide

/-- T-ALU-11. -/
theorem test_addReg_flag_is_destination : (run (regs 0x80 0 0x80) 0x8F14).map (fun t => t.reg 0xF) = some 0x01 := by decide

/-- E3. -/
theorem test_sub : (run (regs 0x05 0x0A 1) 0x8125).map (fun t => (t.reg 0x1, t.reg 0xF)) = some (0xFB, 0x00) := by decide

/-- E3. -/
theorem test_sub_equal : (run (regs 0x07 0x07 0) 0x8125).map (fun t => (t.reg 0x1, t.reg 0xF)) = some (0x00, 0x01) := by decide

/-- T-ALU-17. -/
theorem test_shr : (run (regs 0xAA 0x05 0) 0x8126).map (fun t => (t.reg 0x1, t.reg 0x2, t.reg 0xF)) = some (0x02, 0x05, 0x01) := by decide

/-- T-ALU-20. -/
theorem test_shr_old_flag_is_source : (run (regs 0 0 0x03) 0x81F6).map (fun t => (t.reg 0x1, t.reg 0xF)) = some (0x01, 0x01) := by decide

/-- T-ALU-27, T-ALU-28. -/
theorem test_subn : (run (regs 0x05 0x0A 0) 0x8127).map (fun t => (t.reg 0x1, t.reg 0xF)) = some (0x05, 0x01) ∧
    (run (regs 0x0A 0x05 1) 0x8127).map (fun t => (t.reg 0x1, t.reg 0xF)) = some (0xFB, 0x00) := by decide

/-- T-ALU-23. -/
theorem test_shl : (run (regs 0 0xC1 0) 0x812E).map (fun t => (t.reg 0x1, t.reg 0x2, t.reg 0xF)) = some (0x82, 0xC1, 0x01) := by decide

/-- T-ALU-31. -/
theorem test_rnd : (run (supply 0x0000 0xB7 State.reset) 0xC30F).map (fun t => (t.reg 0x3, t.inputs)) = some (0x07, []) := by decide

/-! Index register and memory (section 2.5). -/

/-- T-IDX-1. -/
theorem test_ldI : (run (State.reset.setI 0xFFFF) 0xAFFF).map (fun t => t.i) = some 0x0FFF := by decide

/-- T-IDX-3, T-IDX-4. -/
theorem test_addI : (run ((State.reset.setI 0x0FFF).setReg 0x0 0x01) 0xF01E).map (fun t => (t.i, t.reg 0xF)) = some (0x1000, 0x00) ∧
    (run ((State.reset.setI 0xFFFF).setReg 0x0 0x02) 0xF01E).map (fun t => t.i) = some 0x0001 := by decide

/-- T-IDX-5, T-IDX-8. -/
theorem test_ldF : (run (State.reset.setReg 0x0 0x0A) 0xF029).map (fun t => t.i) = some 0x0032 ∧
    (run (State.reset.setReg 0x0 0xFF) 0xF029).map (fun t => t.i) = some 0x04FB := by decide

/-- T-IDX-9. -/
theorem test_ldB : (run ((State.reset.setI 0x0300).setReg 0x0 0x9C) 0xF033).map (fun t => (t.mem.readBytes 0x300 3, t.i)) =
    some ([0x01, 0x05, 0x06], 0x0300) := by decide

/-- T-IDX-12. -/
theorem test_ldB_outside : (run ((State.reset.setI 0x0FFE).setReg 0x0 0xFF) 0xF033).map (fun t => (t.fault, t.mem.readBytes 0xFFE 2, t.pc)) =
    some (some (.dataAddressOutOfBounds 0x0FFE), [0, 0], 0x0200) := by decide

/-- T-IDX-15. -/
theorem test_stRegs : (run (quad.setI 0x0FFC) 0xF355).map (fun t => (t.mem.readBytes 0xFFC 4, t.i, t.fault)) =
    some ([0x11, 0x22, 0x33, 0x44], 0x1000, none) := by decide

/-- T-IDX-16. -/
theorem test_stRegs_outside : (run (quad.setI 0x0FFD) 0xF355).map (fun t => (t.fault, t.mem.readBytes 0xFFD 3, t.i)) =
    some (some (.dataAddressOutOfBounds 0x0FFD), [0, 0, 0], 0x0FFD) := by decide

/-- T-IDX-18. -/
theorem test_ldRegs : (run (((State.reset.setMem (Memory.writeBytes [] 0x300 [1, 5, 6])).setI 0x0300).setReg 0x3 0x99) 0xF265).map
    (fun t => (t.reg 0x0, t.reg 0x1, t.reg 0x2, t.reg 0x3, t.i)) = some (1, 5, 6, 0x99, 0x0303) := by decide

/-- T-IDX-20. -/
theorem test_ldRegs_outside : (run (State.reset.setI 0x0FF1) 0xFF65).map (fun t => (t.fault, t.reg 0x0)) =
    some (some (.dataAddressOutOfBounds 0x0FF1), 0) := by decide

/-! Display (section 2.6). -/

/-- T-DRW-1. -/
theorem test_cls : (run { State.reset with fb := State.reset.fb.set 3 0xFF } 0x00E0).map (fun t => (t.fb, t.dirty)) =
    some (State.reset.fb, true) := by decide

/-- T-DRW-3: columns 5 to 8, bit x of a row is column x. -/
theorem test_drw_glyph : (run (State.reset.setReg 0x0 5) 0xD005).map (fun t => (t.fb.toList.take 11, t.reg 0xF, t.dirty)) =
    some ([0, 0, 0, 0, 0, 0x1E0, 0x120, 0x120, 0x120, 0x1E0, 0], 0x00, true) := by decide

/-- T-DRW-5. -/
theorem test_drw_clips : (run ((((State.reset.setReg 0x0 0x3C).setReg 0x1 0x1E).setI 0x0300).setMem
    (Memory.writeBytes [] 0x300 [0xFF, 0xFF, 0xFF, 0xFF])) 0xD014).map
    (fun t => (t.fb.toList.drop 29, t.fb[0], t.reg 0xF)) =
    some ([0, 0xF000000000000000, 0xF000000000000000], 0, 0x00) := by decide

/-! Keypad and timers (section 2.7). -/

/-- T-KEY-1, T-KEY-3. -/
theorem test_skp : (run (supply 0x0080 0 (State.reset.setReg 0x4 0x07)) 0xE49E).map (fun t => t.pc) = some 0x0204 ∧
    (run (supply 0x0140 0 (State.reset.setReg 0x4 0x07)) 0xE49E).map (fun t => t.pc) = some 0x0202 := by decide

/-- T-KEY-6. -/
theorem test_skp_index : (run (supply 0xFFFF 0 (State.reset.setReg 0x4 0x10)) 0xE49E).map (fun t => (t.fault, t.pc)) =
    some (some (.keyIndexOutOfRange 0x10), 0x0200) := by decide

/-- T-KEY-4, T-KEY-5. -/
theorem test_sknp : (run (supply 0 0 (State.reset.setReg 0x4 0x07)) 0xE4A1).map (fun t => t.pc) = some 0x0204 ∧
    (run (supply 0x0080 0 (State.reset.setReg 0x4 0x07)) 0xE4A1).map (fun t => t.pc) = some 0x0202 := by decide

/-- T-KEY-7. -/
theorem test_sknp_index : (run (supply 0 0 (State.reset.setReg 0x4 0xFF)) 0xE4A1).map (fun t => t.fault) = some (some (.keyIndexOutOfRange 0xFF)) := by decide

/-- T-KW-2. -/
theorem test_keyWait_press : (run (supply 0x0208 0 (State.reset.setKeyWait .waitingForPress 0)) 0xF10A).map
    (fun t => (t.reg 0x1, t.kwKey, t.kws, t.pc)) = some (0x03, 3, .waitingForRelease, 0x0200) := by decide

/-- T-KW-5. -/
theorem test_keyWait_release : (run (supply 0x0201 0 ((State.reset.setKeyWait .waitingForRelease 3).setReg 0x1 0x03)) 0xF10A).map
    (fun t => (t.reg 0x1, t.kws, t.pc)) = some (0x03, .idle, 0x0202) := by decide

/-- T-TMR-1. -/
theorem test_ldVxDt : (run (State.reset.setDt 0x05) 0xF307).map (fun t => (t.reg 0x3, t.dt)) = some (0x05, 0x04) := by decide

/-- T-TMR-3, T-TMR-5. -/
theorem test_ldDtVx : (run (State.reset.setReg 0x0 0x03) 0xF015).map (fun t => t.dt) = some 0x02 ∧
    (run (State.reset.setDt 0x09) 0xF015).map (fun t => t.dt) = some 0x00 := by decide

/-- T-TMR-6. -/
theorem test_ldStVx : (run (State.reset.setReg 0x2 0x03) 0xF218).map (fun t => t.st) = some 0x02 := by decide

/-! The cycle, the host (sections 2.1 and 2.8). -/

/-- T-FET-3. -/
theorem test_fetch_top : (run (State.reset.goto 0x0FFE) 0x6A01).map (fun t => (t.reg 0xA, t.pc, t.fault)) = some (0x01, 0x1000, none) := by decide

/-- T-FET-4, T-FET-5. -/
theorem test_fetch_outside : (stepTo ((State.reset.goto 0x0FFF).setDt 5)).map (fun t => (t.fault, t.pc, t.dt)) =
    some (some (.fetchOutOfBounds 0x0FFF), 0x0FFF, 5) := by decide

/-- T-FET-2. -/
theorem test_fetch_odd : (run (State.reset.goto 0x0301) 0x6107).map (fun t => (t.reg 0x1, t.pc)) = some (0x07, 0x0303) := by decide

/-- T-CYC-2. -/
theorem test_dirty_cleared : (run (State.reset.setDirty true) 0x6000).map (fun t => t.dirty) = some false := by decide

/-- T-LD-2. -/
theorem test_load_odd_length : (boot [0x60, 0x05, 0xA0]).mem.readBytes 0x200 4 = [0x60, 0x05, 0xA0, 0x00] := by decide

/-- T-LD-4. -/
theorem test_load_too_long : faultCode (State.reset.placeProgram (List.replicate 3585 0x11)) = 7 := by
  rw [State.placeProgram, if_neg (by rw [List.length_replicate]; decide)]; rfl

/-- T-LD-5. -/
theorem test_load_empty : load [] Session.absent.reset = .next (.loaded State.reset) := rfl

/-- R282. -/
theorem test_load_out_of_order : load [] .absent = .refused .noState ∧ load [] (.loaded State.reset) = .refused .loadOutOfOrder ∧
    load [] (.stepped State.reset) = .refused .loadOutOfOrder := ⟨rfl, rfl, rfl⟩

/-- R282. -/
theorem test_step_without_load : ∃ t, Session.step 0 0 Session.absent.reset = .next (.stepped t) ∧ t.fault = some (.invalidOpcode 0x0000) := ⟨_, rfl, by decide⟩

/-! A witness for the hypotheses of each statement that has some; several where clauses meet at a boundary. -/

theorem witness_CallPushesReturnAddress : ({ State.reset with sp := 15 } : State).sp.val < 16 := by decide

theorem witness_RetPopsReturnAddress : 0 < ({ State.reset with sp := 1 } : State).sp.val := by decide

theorem witness_CallThenRetReturns : State.reset.sp.val < 16 ∧
    ∃ t, exec (.call 0x300) State.reset = .next t ∧ t.stack = t.stack ∧ t.sp = t.sp := ⟨by decide, _, rfl, rfl, rfl⟩

theorem witness_StackFaultsLatch : ({ State.reset with sp := 16 } : State).sp.val = 16 ∧ State.reset.sp.val = 0 := by decide

theorem witness_LogicClearsFlag : (0x0 : Nibble) ≠ 0xF := by decide

theorem witness_BcdStoresDigits : (State.reset.setI 0x0FFD).i.toNat + 2 ≤ 0xFFF := by decide

theorem witness_BulkStoreWritesRegisters : (State.reset.setI 0x0FF0).i.toNat + (0xF : Nibble).toNat ≤ 0xFFF := by decide

theorem witness_BulkLoadReadsRegisters : (State.reset.setI 0x0FFF).i.toNat + (0x0 : Nibble).toNat ≤ 0xFFF := by decide

theorem witness_BulkRoundTrip : (State.reset.setI 0x0400).i.toNat + (0x3 : Nibble).toNat ≤ 0xFFF ∧
    ∃ t, exec (.stRegs 0x3) (State.reset.setI 0x0400) = .next t ∧
      (t.setI 0x0400).mem = t.mem ∧ (t.setI 0x0400).i = (State.reset.setI 0x0400).i := ⟨by decide, _, rfl, rfl, rfl⟩

theorem witness_DataRangeFaultLatches : 0xFFF < (State.reset.setI 0x0FFE).i.toNat + 2 ∧
    0xFFF < (State.reset.setI 0x1000).i.toNat + (0x0 : Nibble).toNat ∧
    0 < (0x3 : Nibble).toNat ∧ 0xFFF < (State.reset.setI 0x0FFE).i.toNat + (0x3 : Nibble).toNat - 1 := by decide

theorem witness_StoreSeenByNextFetch : 1 ≤ (0x1 : Nibble).toNat ∧ (State.reset.setI 0x0202).i = (State.reset.setI 0x0202).pc + 2 ∧
    (State.reset.setI 0x0202).i.toNat + (0x1 : Nibble).toNat ≤ 0xFFF := by decide

theorem witness_ClearScreen : Running (State.reset.withFetchWord 16 0x00E0) ∧ AtPc (State.reset.withFetchWord 16 0x00E0) .cls := ⟨rfl, by decide, by decide⟩

theorem witness_DrawXorsSprite : ((0x0 : Nibble) = 0 ∨ (State.reset.setI 0xFFFF).i.toNat + (0x0 : Nibble).toNat - 1 ≤ 0xFFF) ∧
    ((0x3 : Nibble) = 0 ∨ (State.reset.setI 0x0FFD).i.toNat + (0x3 : Nibble).toNat - 1 ≤ 0xFFF) := by decide

theorem witness_DrawXorsSprite_clauses : (∃ px < 64, ∃ py < 32, spriteCovers State.reset 0x0 0x0 0x1 px py = true ∧
      ({ State.reset with fb := State.reset.fb.set 0 1 } : State).pixel px py = true) ∧
    ¬ ∃ px < 64, ∃ py < 32, spriteCovers State.reset 0x0 0x0 0x0 px py = true ∧ State.reset.pixel px py = true := by
  refine ⟨⟨0, by decide, 0, by decide, by decide⟩, ?_⟩
  rintro ⟨px, _, py, _, h, _⟩
  simp only [spriteCovers, Bool.and_eq_true, decide_eq_true_eq] at h
  have : (0x0 : Nibble).toNat = 0 := rfl
  omega

theorem witness_DrawTwiceRestores : (0x5 : Nibble) = 0 ∨ State.reset.i.toNat + (0x5 : Nibble).toNat - 1 ≤ 0xFFF := by decide

theorem witness_DrawOffScreenIsClipped : (64 ≤ ((State.reset.setReg 0x0 64).reg 0x0).toNat ∨ 32 ≤ ((State.reset.setReg 0x0 64).reg 0x1).toNat) ∧
    (64 ≤ ((State.reset.setReg 0x1 32).reg 0x0).toNat ∨ 32 ≤ ((State.reset.setReg 0x1 32).reg 0x1).toNat) ∧
    ((0x1 : Nibble) = 0 ∨ State.reset.i.toNat + (0x1 : Nibble).toNat - 1 ≤ 0xFFF) := by decide

theorem witness_SkipOnKey : ((State.reset.setReg 0x4 0x0F).reg 0x4).toNat ≤ 15 := by decide

theorem witness_KeyIndexFaultLatches : 15 < ((State.reset.setReg 0x4 0x10).reg 0x4).toNat := by decide

theorem witness_KeyWaitCycle_press : (supply 0x8000 0 State.reset).kws ≠ .waitingForRelease ∧ (supply 0x8000 0 State.reset).input.keys.getLsbD 15 = true ∧
    ∀ j < 15, (supply 0x8000 0 State.reset).input.keys.getLsbD j = false := by decide

theorem witness_KeyWaitCycle_none : (supply 0x0000 0 State.reset).kws ≠ .waitingForRelease ∧
    ∀ k < 16, (supply 0x0000 0 State.reset).input.keys.getLsbD k = false := by decide

theorem witness_KeyWaitCycle_release : (supply 0x0008 0 (State.reset.setKeyWait .waitingForRelease 3)).kws = .waitingForRelease ∧
    (supply 0x0008 0 (State.reset.setKeyWait .waitingForRelease 3)).input.keys.getLsbD 3 = true ∧
    (supply 0x0201 0 (State.reset.setKeyWait .waitingForRelease 3)).input.keys.getLsbD 3 = false := by decide

theorem witness_ReadDelayTimer : Running (State.reset.withFetchWord 16 0xF307) ∧ AtPc (State.reset.withFetchWord 16 0xF307) (.ldVxDt 0x3) := ⟨rfl, by decide, by decide⟩

theorem witness_WriteDelayTimer : Running (State.reset.withFetchWord 16 0xF015) ∧ AtPc (State.reset.withFetchWord 16 0xF015) (.ldDtVx 0x0) := ⟨rfl, by decide, by decide⟩

theorem witness_WriteSoundTimer : Running (State.reset.withFetchWord 16 0xF218) ∧ AtPc (State.reset.withFetchWord 16 0xF218) (.ldStVx 0x2) := ⟨rfl, by decide, by decide⟩

theorem witness_StepRunsDecodedInstruction : Running (State.reset.withFetchWord 16 0x6005) ∧ AtPc (State.reset.withFetchWord 16 0x6005) (.ldImm 0x0 0x05) := ⟨rfl, by decide, by decide⟩

theorem witness_DirtyAfterDrawOrClear : Running (State.reset.withFetchWord 16 0xD005) ∧ AtPc (State.reset.withFetchWord 16 0xD005) (.drw 0x0 0x0 0x5) ∧
    ∃ t, step (State.reset.withFetchWord 16 0xD005) = .next t ∧ t.fault = none := ⟨rfl, ⟨by decide, by decide⟩, _, rfl, by decide⟩

theorem witness_TimersTickEveryCycle : Running (State.reset.withFetchWord 16 0xF015) ∧ AtPc (State.reset.withFetchWord 16 0xF015) (.ldDtVx 0x0) ∧
    ∃ t, step (State.reset.withFetchWord 16 0xF015) = .next t ∧ t.fault = none := ⟨rfl, ⟨by decide, by decide⟩, _, rfl, by decide⟩

theorem witness_TimersTickEveryCycle_sound : Running (State.reset.withFetchWord 16 0xF018) ∧ AtPc (State.reset.withFetchWord 16 0xF018) (.ldStVx 0x0) ∧
    ∃ t, step (State.reset.withFetchWord 16 0xF018) = .next t ∧ t.fault = none := ⟨rfl, ⟨by decide, by decide⟩, _, rfl, by decide⟩

theorem witness_FaultingCycleCommitsNothing : Running (State.reset.goto 0x0FFF) ∧ stepRaises (State.reset.goto 0x0FFF) = some (.fetchOutOfBounds 0x0FFF) ∧
    stepRaises (State.reset.goto 0x0FFE) = some (.invalidOpcode 0x0000) ∧
    stepRaises (State.reset.withFetchWord 16 0x00EE) = some (.stackUnderflow 0x0200) ∧
    stepRaises (State.reset.withFetchWord 16 0x6005) = none := ⟨rfl, by decide, by decide, by decide, by decide⟩

theorem witness_HaltedCoreStaysHalted : (State.reset.raise (.invalidOpcode 0x0000)).fault = some (.invalidOpcode 0x0000) := by decide

theorem witness_InstructionsKeepToTheirWrites : raises (.drw 0x0 0x1 0x3) (State.reset.setI 0x0FFD) = none ∧
    raises (.drw 0x0 0x1 0x3) (State.reset.setI 0x0FFE) = some (.dataAddressOutOfBounds 0x0FFE) ∧
    raises (.ldB 0x0) (State.reset.setI 0x0FFD) = none ∧
    raises (.skp 0x4) (State.reset.setReg 0x4 0x10) = some (.keyIndexOutOfRange 0x10) := by decide

theorem witness_OnlyRndReadsTheRandomByte : ∀ x nn, Instr.addReg 0x1 0x2 ≠ .rnd x nn := by simp

theorem witness_OnlyKeypadInstructionsReadKeys : (∀ x, Instr.rnd 0x1 0x0F ≠ .skp x) ∧ (∀ x, Instr.rnd 0x1 0x0F ≠ .sknp x) ∧ ∀ x, Instr.rnd 0x1 0x0F ≠ .ldVxK x := by simp

theorem witness_EncodeOfDecode : decode 0x5120 = .ok (.seReg 0x1 0x2) ∧ canonicalWord 0x5120 = true := by decide

theorem witness_ValidWordsAreThoseThatDecode : validWord 0x00EE = true ∧ validWord 0x00EF = false := by decide

theorem witness_NoWordHasTwoInstructions : rows[0] ∈ rows ∧ rows[0].covers 0x00E0 = true := by decide

theorem witness_StepKeepsMemoryCanonical : MemoryCanonical (quad.setI 0x0400 |>.withFetchWord 16 0xF355) ∧
    ∃ t, step (quad.setI 0x0400 |>.withFetchWord 16 0xF355) = .next t := ⟨by show Memory.wf _ = true; decide, _, rfl⟩

theorem witness_StepKeepsKeyWaitCoherent : KeyWaitCoherent ((State.reset.setKeyWait .waitingForRelease 0).withFetchWord 16 0xF10A) ∧
    ∃ t, step ((State.reset.setKeyWait .waitingForRelease 0).withFetchWord 16 0xF10A) = .next t := ⟨fun _ => ⟨0x1, ⟨by decide, by decide⟩, fun _ => by decide⟩, _, rfl⟩

theorem witness_StepKeepsAddressesBounded : AddressesBounded (State.reset.withFetchWord 16 0x2300) ∧
    ∃ t, step (State.reset.withFetchWord 16 0x2300) = .next t := ⟨⟨by decide, by decide⟩, _, rfl⟩

theorem witness_LoadPlacesProgram : ([0x60, 0x05] : List Byte).length ≤ 3584 ∧ 3584 < (List.replicate 3585 (0x11 : Byte)).length ∧ MemoryCanonical State.reset := ⟨by decide, by rw [List.length_replicate]; decide, rfl⟩

theorem witness_LoadOnlyOnceBeforeSteps : (∃ h, load [0x60, 0x05] Session.absent.reset = .next h) ∧ Session.absent.reset ≠ .absent := ⟨⟨_, rfl⟩, by decide⟩

theorem witness_ResetLeaves : (0x050 : Nat) ≤ 0x050 := by decide

end Sys2Proof.Tests
end

namespace Sys2Proof.Proofs

open Sys2Proof.Machine

/-- A cycle that ends without a fault is the execute phase, itself without a fault, and then the end of the cycle
(R120): the converse of `step_of_exec`. -/
theorem exec_of_step_of_fault_none {s t : State} {i : Instr} (hs : Running s) (hi : AtPc s i)
    (hstep : step s = .next t) (hf : t.fault = none) :
    ∃ u, exec i s = .next u ∧ u.fault = none ∧ t = u.endCycle (draws i) := by
  obtain ⟨u, hu⟩ := exec_next s i
  have huf : u.fault = none := by
    cases huf : u.fault with
    | none => rfl
    | some f =>
      have htu : t = u := Host.Outcome.next.inj (hstep.symm.trans (step_of_exec_fault s hs hi hu huf))
      exact absurd (huf.symm.trans (htu ▸ hf)) (Option.some_ne_none f)
  exact ⟨u, hu, huf, Host.Outcome.next.inj (hstep.symm.trans (step_of_exec s hs hi hu huf))⟩

/-- Settles O38: a cycle without a fault ends in `endCycle`, which sets `DIRTY` to `draws` of its instruction
(R126). -/
theorem dirtyAfterDrawOrClear : Obligations.DirtyAfterDrawOrClear := by
  intro s t i hs hi hstep hf
  obtain ⟨u, -, -, rfl⟩ := exec_of_step_of_fault_none hs hi hstep hf
  rw [State.endCycle_dirty, draws_eq_true_iff]

end Sys2Proof.Proofs

namespace Sys2Proof.Proofs

open Sys2Proof.Machine

/-! What a control transfer without the stack writes: `pc` alone. -/

theorem goto_changesOnly_pc (s : State) (w : Word) : ChangesOnly (fun p => p = .pc) s (s.goto w) := by
  intro p hp
  cases p with
  | pc => exact absurd rfl hp
  | _ => simp [Part.Same]

theorem skipIf_changesOnly_pc (s : State) (c : Bool) : ChangesOnly (fun p => p = .pc) s (s.skipIf c) :=
  goto_changesOnly_pc s _

/-! The meanings of the jump and of the skips that compare registers (R141, R143 to R146). -/

theorem exec_jp (nnn : Addr12) (s : State) : exec (.jp nnn) s = .next (s.goto (addrWord nnn)) := rfl

theorem exec_se (x : Nibble) (nn : Byte) (s : State) : exec (.se x nn) s = .next (s.skipIf (s.reg x == nn)) := rfl

theorem exec_sne (x : Nibble) (nn : Byte) (s : State) : exec (.sne x nn) s = .next (s.skipIf (s.reg x != nn)) := rfl

theorem exec_seReg (x y : Nibble) (s : State) :
    exec (.seReg x y) s = .next (s.skipIf (s.reg x == s.reg y)) := rfl

theorem exec_sneReg (x y : Nibble) (s : State) :
    exec (.sneReg x y) s = .next (s.skipIf (s.reg x != s.reg y)) := rfl

/-- An instruction that skips when `c` holds, `c` being the truth value of `P`: the extra 2 exactly when `P`, and
nothing but `pc` written. -/
theorem exec_skips_iff {i : Instr} {s : State} {c : Bool} {P : Prop} [Decidable P]
    (hexec : exec i s = .next (s.skipIf c)) (hc : c = true ↔ P) :
    ∃ t, exec i s = .next t ∧ t.pc = (if P then s.pc + 4 else s.pc + 2) ∧ ChangesOnly (fun p => p = .pc) s t := by
  refine ⟨_, hexec, ?_, skipIf_changesOnly_pc s c⟩
  rw [State.skipIf_pc]
  exact if_congr hc rfl rfl

/-- The same for a skip when `P` fails. -/
theorem exec_skips_iff_not {i : Instr} {s : State} {c : Bool} {P : Prop} [Decidable P]
    (hexec : exec i s = .next (s.skipIf c)) (hc : c = true ↔ ¬ P) :
    ∃ t, exec i s = .next t ∧ t.pc = (if P then s.pc + 2 else s.pc + 4) ∧ ChangesOnly (fun p => p = .pc) s t := by
  rw [← ite_not]
  exact exec_skips_iff hexec hc

/-- Settles O1: the jump is one `goto`, to `NNN` widened to 16 bits (R141). -/
theorem jumpGoesToTarget : Obligations.JumpGoesToTarget := fun nnn s =>
  ⟨_, exec_jp nnn s, addrWord_toNat nnn, goto_changesOnly_pc s _⟩

/-- Settles O6: SE skips on equality with the immediate, SNE on its negation (R143, R144). -/
theorem skipOnImmediate : Obligations.SkipOnImmediate := fun x nn s =>
  ⟨exec_skips_iff (exec_se x nn s) beq_iff_eq, exec_skips_iff_not (exec_sne x nn s) bne_iff_ne⟩

/-- Settles O7: the skips of O6 with a second register in place of the immediate (R145, R146). -/
theorem skipOnRegisters : Obligations.SkipOnRegisters := fun x y s =>
  ⟨exec_skips_iff (exec_seReg x y s) beq_iff_eq, exec_skips_iff_not (exec_sneReg x y s) bne_iff_ne⟩

end Sys2Proof.Proofs

namespace Sys2Proof.Proofs

open Sys2Proof.Machine

/-! Frames compose: a write after a write changes at most what the two change (10_state.md R36). -/

theorem same_trans {s t u : State} {p : Part} (hst : Part.Same s t p) (htu : Part.Same t u p) :
    Part.Same s u p := by
  cases p with
  | input => exact ⟨htu.1.trans hst.1, htu.2.trans hst.2⟩
  | _ => exact Eq.trans htu hst

theorem changesOnly_trans {s t u : State} {P Q : Part → Prop} (hst : ChangesOnly P s t) (htu : ChangesOnly Q t u) :
    ChangesOnly (fun p => P p ∨ Q p) s u := fun p hp =>
  same_trans (hst p fun h => hp (.inl h)) (htu p fun h => hp (.inr h))

/-- The commit of a cycle adds `pc` to what the instruction wrote (R124). -/
theorem advance_changesOnly {s t : State} {P : Part → Prop} (h : ChangesOnly P s t) :
    ChangesOnly (fun p => p = .pc ∨ P p) s t.advance := fun p hp =>
  changesOnly_trans h (goto_changesOnly_pc t _) p (mt Or.symm hp)

theorem setReg_changesOnly_reg (s : State) (r : Nibble) (b : Byte) :
    ChangesOnly (fun p => p = .reg r) s (s.setReg r b) := by
  intro p hp
  cases p with
  | reg q =>
    have hq : q ≠ r := fun h => hp (congrArg Part.reg h)
    rw [Part.Same, State.reg_setReg, if_neg hq]
  | _ => simp [Part.Same]

/-- A result and its flag are two register writes (R160). -/
theorem setRegFlag_changesOnly_regs (s : State) (x : Nibble) (b f : Byte) :
    ChangesOnly (fun p => p = .reg x ∨ p = .reg 0xF) s (s.setRegFlag x b f) :=
  changesOnly_trans (setReg_changesOnly_reg s x b) (setReg_changesOnly_reg _ 0xF f)

/-! The meanings of the register load, logic and arithmetic instructions (R161, R162, R164 to R168). -/

theorem exec_ldImm (x : Nibble) (nn : Byte) (s : State) : exec (.ldImm x nn) s = .next (s.setReg x nn).advance := rfl

theorem exec_addImm (x : Nibble) (nn : Byte) (s : State) :
    exec (.addImm x nn) s = .next (s.setReg x (s.reg x + nn)).advance := rfl

theorem exec_orReg (x y : Nibble) (s : State) :
    exec (.orReg x y) s = .next (s.setRegFlag x (s.reg x ||| s.reg y) 0).advance := rfl

theorem exec_andReg (x y : Nibble) (s : State) :
    exec (.andReg x y) s = .next (s.setRegFlag x (s.reg x &&& s.reg y) 0).advance := rfl

theorem exec_xorReg (x y : Nibble) (s : State) :
    exec (.xorReg x y) s = .next (s.setRegFlag x (s.reg x ^^^ s.reg y) 0).advance := rfl

theorem exec_addReg (x y : Nibble) (s : State) :
    exec (.addReg x y) s =
      .next (s.setRegFlag x (s.reg x + s.reg y) (carryFlag (s.reg x) (s.reg y))).advance := rfl

theorem exec_sub (x y : Nibble) (s : State) :
    exec (.sub x y) s =
      .next (s.setRegFlag x (s.reg x - s.reg y) (noBorrowFlag (s.reg x) (s.reg y))).advance := rfl

/-- An instruction that writes one register: the byte in it, and nothing but it and `pc` written. -/
theorem exec_writes_reg {i : Instr} {s : State} {x : Nibble} {b : Byte}
    (hexec : exec i s = .next (s.setReg x b).advance) :
    ∃ t, exec i s = .next t ∧ t.reg x = b ∧ t.pc = s.pc + 2 ∧ ChangesOnly (fun p => p = .pc ∨ p = .reg x) s t :=
  ⟨_, hexec, s.reg_setReg_self x b, s.npc_eq, advance_changesOnly (setReg_changesOnly_reg s x b)⟩

/-- An instruction that writes a result and then the flag (R160): the flag in `VF` always, the result in `VX` unless
`VF` took its place, and nothing but these two and `pc` written. -/
theorem exec_writes_reg_flag {i : Instr} {s : State} {x : Nibble} {b f : Byte}
    (hexec : exec i s = .next (s.setRegFlag x b f).advance) :
    ∃ t, exec i s = .next t ∧ t.reg 0xF = f ∧ (x ≠ 0xF → t.reg x = b) ∧ t.pc = s.pc + 2 ∧
      ChangesOnly (fun p => p = .pc ∨ p = .reg x ∨ p = .reg 0xF) s t :=
  ⟨_, hexec, s.reg_setRegFlag_flag x b f, fun hx => s.reg_setRegFlag_of_ne hx b f, s.npc_eq,
    advance_changesOnly (setRegFlag_changesOnly_regs s x b f)⟩

/-! Results and flags as natural numbers (R167, R168). -/

theorem carryFlag_toNat (a b : Byte) : (carryFlag a b).toNat = if 255 < a.toNat + b.toNat then 1 else 0 := by
  simp [carryFlag]

theorem noBorrowFlag_toNat (a b : Byte) : (noBorrowFlag a b).toNat = if b.toNat ≤ a.toNat then 1 else 0 := by
  simp [noBorrowFlag]

/-- The difference modulo 256 in the spec's form, where the subtraction of naturals never truncates (R168). -/
theorem byte_sub_toNat (a b : Byte) : (a - b).toNat = (a.toNat + 256 - b.toNat) % 256 := by
  rw [BitVec.toNat_sub', ← Nat.add_sub_assoc b.isLt.le]

/-- Settles O9: the load is one register write (R161). -/
theorem loadImmediate : Obligations.LoadImmediate := fun x nn s => exec_writes_reg (exec_ldImm x nn s)

/-- Settles O10: one register write, of the 8-bit sum (R162). -/
theorem addImmediate : Obligations.AddImmediate := by
  intro x nn s
  obtain ⟨t, ht, hx, hpc, hframe⟩ := exec_writes_reg (exec_addImm x nn s)
  exact ⟨t, ht, by rw [hx, BitVec.toNat_add], hpc, hframe⟩

/-- Settles O12: each logical operation writes its result and then the flag 0 (R164 to R166). -/
theorem logicClearsFlag : Obligations.LogicClearsFlag := fun x y s =>
  ⟨exec_writes_reg_flag (exec_orReg x y s), exec_writes_reg_flag (exec_andReg x y s),
    exec_writes_reg_flag (exec_xorReg x y s)⟩

/-- Settles O13: the 8-bit sum and then its carry (R167). -/
theorem addSetsCarry : Obligations.AddSetsCarry := by
  intro x y s
  obtain ⟨t, ht, hflag, hx, hpc, hframe⟩ := exec_writes_reg_flag (exec_addReg x y s)
  exact ⟨t, ht, by rw [hflag, carryFlag_toNat], fun hne => by rw [hx hne, BitVec.toNat_add], hpc, hframe⟩

/-- Settles O14: the 8-bit difference and then its no-borrow flag (R168). -/
theorem subSetsNoBorrow : Obligations.SubSetsNoBorrow := by
  intro x y s
  obtain ⟨t, ht, hflag, hx, hpc, hframe⟩ := exec_writes_reg_flag (exec_sub x y s)
  exact ⟨t, ht, by rw [hflag, noBorrowFlag_toNat], fun hne => by rw [hx hne, byte_sub_toNat], hpc, hframe⟩

end Sys2Proof.Proofs

namespace Sys2Proof.Proofs

open Sys2Proof.Machine

/-! The index register as the one piece an instruction writes (R181). -/

theorem setI_changesOnly_i (s : State) (w : Word) : ChangesOnly (fun p => p = .i) s (s.setI w) := by
  intro p hp
  cases p with
  | i => exact absurd rfl hp
  | _ => simp [Part.Same]

theorem exec_ldI (nnn : Addr12) (s : State) : exec (.ldI nnn) s = .next (s.setI (addrWord nnn)).advance := rfl

/-- An instruction that writes the index register: the word in it, and nothing but it and `pc` written. -/
theorem exec_writes_i {i : Instr} {s : State} {w : Word} (hexec : exec i s = .next (s.setI w).advance) :
    ∃ t, exec i s = .next t ∧ t.i = w ∧ t.pc = s.pc + 2 ∧ ChangesOnly (fun p => p = .pc ∨ p = .i) s t :=
  ⟨_, hexec, s.setI_i w, s.npc_eq, advance_changesOnly (setI_changesOnly_i s w)⟩

/-- Settles O18: one write of the index register, of `NNN` widened to 16 bits (R181). -/
theorem loadIndex : Obligations.LoadIndex := by
  intro nnn s
  obtain ⟨t, ht, hi, hpc, hframe⟩ := exec_writes_i (exec_ldI nnn s)
  exact ⟨t, ht, by rw [hi, addrWord_toNat], hpc, hframe⟩

end Sys2Proof.Proofs

namespace Sys2Proof.Proofs

open Sys2Proof.Machine

/-! The framebuffer as the one piece an instruction writes, and the blank one (R200). -/

theorem setFb_changesOnly_pixels (s : State) (fb : Vector (BitVec 64) 32) :
    ChangesOnly (fun p => ∃ px py, p = .pixel px py) s (s.setFb fb) := by
  intro p hp
  cases p with
  | pixel px py => exact absurd ⟨px, py, rfl⟩ hp
  | _ => simp [Part.Same]

theorem fbPixel_blank (px py : Nat) : fbPixel (Vector.replicate 32 0) px py = false := by
  rw [fbPixel, fb_getD_eq]
  split <;> simp

theorem exec_cls (s : State) : exec .cls s = .next (s.setFb (Vector.replicate 32 0)).advance := rfl

/-- Settles O27: CLS is one write of the framebuffer, of the blank one (R200); it raises no fault, so its cycle ends
with `DIRTY` as `draws` says (R126). -/
theorem clearScreen : Obligations.ClearScreen := fun s =>
  ⟨⟨_, exec_cls s, fun px _ py _ => fbPixel_blank px py, s.npc_eq,
      advance_changesOnly (setFb_changesOnly_pixels s _)⟩,
    fun hs hi => ⟨_, step_of_exec s hs hi (exec_cls s) hs, State.endCycle_dirty _ true⟩⟩

end Sys2Proof.Proofs

namespace Sys2Proof.Proofs

open Sys2Proof.Machine

/-! The meaning of the delay timer's read (R224). -/

theorem exec_ldVxDt (x : Nibble) (s : State) : exec (.ldVxDt x) s = .next (s.setReg x s.dt).advance := rfl

/-- Settles O34: the read is one register write, of `DT` as the cycle began; it leaves `DT` to the tick at the end of
the cycle, which follows because the read raises no fault (R125, R224). -/
theorem readDelayTimer : Obligations.ReadDelayTimer := by
  intro x s
  refine ⟨exec_writes_reg (exec_ldVxDt x s), fun hs hi => ?_⟩
  refine ⟨_, step_of_exec s hs hi (exec_ldVxDt x s) hs, ?_, ?_⟩
  · rw [State.endCycle_reg, State.advance_reg, State.reg_setReg_self]
  · rw [State.endCycle_dt, State.advance_dt, State.setReg_dt, tickTimer_toNat]

end Sys2Proof.Proofs

namespace Sys2Proof.Proofs

open Sys2Proof.Machine

/-! The opcode map in natural numbers, where the masks of its rows and the fields the decoder dispatches on are both
quotients and remainders (R91, R94). -/

theorem and_F000_toNat (w : Word) : (w &&& 0xF000).toNat = w.toNat / 4096 * 4096 := by
  have h := wordXYN_and (fieldG w) (fieldX w) (fieldY w) (fieldN w) 0xF 0 0 0
  simp only [wordXYN_fields, ← Laws.EncodesRow.mask_words.1, Nibble.and_F, Nibble.and_0] at h
  rw [h, wordXYN_toNat, fieldG_toNat]
  simp

theorem and_F00F_toNat (w : Word) : (w &&& 0xF00F).toNat = w.toNat / 4096 * 4096 + w.toNat % 16 := by
  have h := wordXYN_and (fieldG w) (fieldX w) (fieldY w) (fieldN w) 0xF 0 0 0xF
  simp only [wordXYN_fields, ← Laws.EncodesRow.mask_words.2.1, Nibble.and_F, Nibble.and_0] at h
  rw [h, wordXYN_toNat, fieldG_toNat, fieldN_toNat]
  simp

theorem and_F0FF_toNat (w : Word) : (w &&& 0xF0FF).toNat = w.toNat / 4096 * 4096 + w.toNat % 256 := by
  have h := wordXYN_and (fieldG w) (fieldX w) (fieldY w) (fieldN w) 0xF 0 0xF 0xF
  simp only [wordXYN_fields, ← Laws.EncodesRow.mask_words.2.2, Nibble.and_F, Nibble.and_0] at h
  rw [h, wordXYN_toNat, fieldG_toNat, fieldY_toNat, fieldN_toNat, show (0 : Nibble).toNat = 0 from rfl]
  omega

theorem and_000F_toNat (w : Word) : (w &&& 0x000F).toNat = w.toNat % 16 := by
  rw [BitVec.toNat_and]
  exact Nat.and_two_pow_sub_one_eq_mod w.toNat 4

theorem and_FFFF_toNat (w : Word) : (w &&& 0xFFFF).toNat = w.toNat := by
  rw [show (0xFFFF : Word) = BitVec.allOnes 16 from rfl, BitVec.and_allOnes]

theorem covers_iff {r : Row} {w : Word} : r.covers w = true ↔ (w &&& r.mask).toNat = r.pattern.toNat := by
  rw [Row.covers, beq_iff_eq, BitVec.toNat_inj]

/-- The word an assembler would emit for the instruction of `w` (R98): bits 3 to 0 cleared in the groups 5 and 9, which
ignore them. -/
def canonicalOf (w : Word) : Word :=
  if fieldG w = 0x5 ∨ fieldG w = 0x9 then wordXYN (fieldG w) (fieldX w) (fieldY w) 0x0 else w

theorem fieldG_eq_iff {w : Word} {g : Nibble} : fieldG w = g ↔ w.toNat / 4096 = g.toNat := by
  rw [← BitVec.toNat_inj, fieldG_toNat]

theorem canonicalOf_toNat (w : Word) :
    (canonicalOf w).toNat = if w.toNat / 4096 = 5 ∨ w.toNat / 4096 = 9 then w.toNat / 16 * 16 else w.toNat := by
  unfold canonicalOf
  simp only [fieldG_eq_iff]
  split
  · rw [if_pos (by assumption), wordXYN_toNat, fieldG_toNat, fieldX_toNat, fieldY_toNat]
    simp; omega
  · rw [if_neg (by assumption)]

/-- Everything the decoder can read (R94, R98): an instruction whose row the word matches and whose own word it is but
for the bits the decoder ignores. -/
theorem decode_ok {w : Word} {i : Instr} (h : decode w = .ok i) :
    encode i = canonicalOf w ∧ i.row.covers w = true := by
  have hw := w.isLt
  rw [← BitVec.toNat_inj, canonicalOf_toNat, covers_iff]
  unfold decode decodeGroup0 decodeGroup8 decodeGroupE decodeGroupF at h
  simp only [fieldG_toNat, fieldNNN_toNat, fieldNN_toNat, fieldN_toNat] at h
  split at h <;> (try split at h) <;> cases h
  all_goals
    simp only [encode, Instr.row, wordNNN_toNat, wordXNN_toNat, wordXYN_toNat, fieldNNN_toNat, fieldNN_toNat,
      fieldX_toNat, fieldY_toNat, fieldN_toNat, and_F000_toNat, and_F00F_toNat, and_F0FF_toNat, and_FFFF_toNat]
    simp only [BitVec.ofNat_eq_ofNat, BitVec.toNat_ofNat]
    constructor
    · split_ifs <;> omega
    · omega

/-- Settles O51: the decoder's dispatch, arm by arm: an arm that answers an instruction is in none of the listed groups,
one that rejects is in its own. -/
theorem invalidWordsByGroup : Obligations.InvalidWordsByGroup := by
  intro w
  have hw := w.isLt
  rw [Ne, Ne, ← BitVec.toNat_inj, ← BitVec.toNat_inj]
  unfold decode decodeGroup0 decodeGroup8 decodeGroupE decodeGroupF
  simp only [fieldG_toNat, fieldNNN_toNat, fieldNN_toNat, fieldN_toNat, BitVec.ofNat_eq_ofNat, BitVec.toNat_ofNat,
    List.mem_cons, List.not_mem_nil, or_false]
  split <;> (try split) <;> simp only [reduceCtorEq, true_iff, false_iff, imp_false] at * <;> omega

/-- The row of every instruction is one of the 34 (R94). -/
theorem row_mem_rows (i : Instr) : i.row ∈ rows := by
  cases i <;> simp only [Instr.row] <;> decide

theorem validWord_of_decode {w : Word} {i : Instr} (h : decode w = .ok i) : validWord w = true :=
  List.any_eq_true.mpr ⟨i.row, row_mem_rows i, (decode_ok h).2⟩

/-- A word the decoder rejects matches no row (R100): each row asks for a group, or a secondary key in it, that the
rejected words of O51 do not have. -/
theorem validWord_of_decode_error {w : Word} (h : decode w = .error (.invalidOpcode w)) : validWord w = false := by
  rw [invalidWordsByGroup, Ne, Ne, ← BitVec.toNat_inj, ← BitVec.toNat_inj] at h
  refine Bool.eq_false_of_not_eq_true fun hv => ?_
  simp only [validWord, rows, rowsControl, rowsLoadAdd, rowsGroup8, rowsIndexDraw, rowsGroupEF, List.any_append,
    List.any_cons, List.any_nil, Bool.or_eq_true, Bool.false_eq_true, covers_iff, and_F000_toNat, and_F00F_toNat,
    and_F0FF_toNat, and_FFFF_toNat] at hv
  simp only [BitVec.ofNat_eq_ofNat, BitVec.toNat_ofNat, List.mem_cons, List.not_mem_nil, or_false] at hv h
  rcases h with ⟨hgroup, h⟩ | ⟨hgroup, h⟩ | ⟨hgroup, h⟩ | ⟨hgroup, h⟩ <;> omega

/-- Settles O49: a word either decodes, to an instruction whose row it then matches, or is rejected, and then matches
none. -/
theorem validWordsAreThoseThatDecode : Obligations.ValidWordsAreThoseThatDecode := by
  intro w
  cases h : decode w with
  | ok i => simp [validWord_of_decode h, (decode_ok h).2]
  | error r =>
    obtain rfl := decode_error h
    simp [validWord_of_decode_error h]

/-- A common word of two rows shows on the bits that both their masks keep. -/
theorem rows_disjoint : ∀ a ∈ rows, ∀ b ∈ rows, a.pattern &&& b.mask = b.pattern &&& a.mask → a = b := by
  decide

/-- Settles O50: on a common word the two patterns agree under both masks, which only a row and itself do. -/
theorem noWordHasTwoInstructions : Obligations.NoWordHasTwoInstructions := by
  intro w a b ha hb hwa hwb
  have hwa : w &&& a.mask = a.pattern := beq_iff_eq.mp hwa
  have hwb : w &&& b.mask = b.pattern := beq_iff_eq.mp hwb
  refine rows_disjoint a ha b hb ?_
  rw [← hwa, ← hwb, BitVec.and_assoc, BitVec.and_assoc, BitVec.and_comm a.mask]

/-- Settles O46: the fields of an instruction's word are its group, its secondary key and its operands (the laws
`field*_word*`), which is what the decoder dispatches on and reads. -/
theorem decodeOfEncode : Obligations.DecodeOfEncode := by
  intro i
  cases i with
  | cls | ret => simp [encode, decode, decodeGroup0]
  | ldReg | orReg | andReg | xorReg | addReg | sub | shr | subn | shl => simp [encode, decode, decodeGroup8]
  | skp | sknp => simp [encode, decode, decodeGroupE]
  | ldVxDt | ldVxK | ldDtVx | ldStVx | addI | ldF | ldB | stRegs | ldRegs => simp [encode, decode, decodeGroupF]
  | _ => simp [encode, decode]

/-- A word is canonical when it is valid and an assembler would emit it (R98). -/
theorem canonicalWord_iff (w : Word) : canonicalWord w = true ↔ validWord w = true ∧ canonicalOf w = w := by
  simp only [canonicalWord, Bool.and_eq_true, Bool.not_eq_true', Bool.and_eq_false_iff, Bool.or_eq_false_iff,
    beq_eq_false_iff_ne, bne_eq_false_iff_eq, Ne, ← BitVec.toNat_inj, canonicalOf_toNat, and_F000_toNat,
    and_000F_toNat]
  simp only [BitVec.ofNat_eq_ofNat, BitVec.toNat_ofNat]
  refine and_congr_right fun _ => ?_
  split_ifs <;> omega

/-- Settles O47: the decoder reads from a word an instruction whose own word it is but for the bits it ignores, which
are clear in a canonical one. -/
theorem encodeOfDecode : Obligations.EncodeOfDecode := fun w _ hi hw =>
  (decode_ok hi).1.trans ((canonicalWord_iff w).mp hw).2

/-- Settles O48: the word of `i` decodes to `i` again (O46), so it matches the row of `i` and has the ignored bits
clear. -/
theorem encodedWordsAreCanonical : Obligations.EncodedWordsAreCanonical := fun i =>
  (canonicalWord_iff _).mpr ⟨validWord_of_decode (decodeOfEncode i), (decode_ok (decodeOfEncode i)).1.symm⟩

/-- Settles O52: the words are evaluated. -/
theorem sampleWordsDecode : Obligations.SampleWordsDecode := by
  unfold Obligations.SampleWordsDecode
  decide

end Sys2Proof.Proofs

namespace Sys2Proof.Proofs

open Sys2Proof.Machine

/-! The meanings of the other instructions that raise no fault (R148, R163, R169 to R172, R182, R183, R225, R226). -/

theorem exec_ldReg (x y : Nibble) (s : State) : exec (.ldReg x y) s = .next (s.setReg x (s.reg y)).advance := rfl

theorem exec_shr (x y : Nibble) (s : State) :
    exec (.shr x y) s = .next (s.setRegFlag x (s.reg y >>> 1) (shiftRightFlag (s.reg y))).advance := rfl

theorem exec_subn (x y : Nibble) (s : State) :
    exec (.subn x y) s =
      .next (s.setRegFlag x (s.reg y - s.reg x) (noBorrowFlag (s.reg y) (s.reg x))).advance := rfl

theorem exec_shl (x y : Nibble) (s : State) :
    exec (.shl x y) s = .next (s.setRegFlag x (s.reg y <<< 1) (shiftLeftFlag (s.reg y))).advance := rfl

theorem exec_jpV0 (nnn : Addr12) (s : State) :
    exec (.jpV0 nnn) s = .next (s.goto (addrWord nnn + byteWord (s.reg 0x0))) := rfl

theorem exec_rnd (x : Nibble) (nn : Byte) (s : State) :
    exec (.rnd x nn) s = .next (s.setReg x (s.rnd &&& nn)).advance := rfl

theorem exec_addI (x : Nibble) (s : State) : exec (.addI x) s = .next (s.setI (s.i + byteWord (s.reg x))).advance := rfl

theorem exec_ldF (x : Nibble) (s : State) : exec (.ldF x) s = .next (s.setI (glyphAddr (s.reg x))).advance := rfl

theorem exec_ldDtVx (x : Nibble) (s : State) : exec (.ldDtVx x) s = .next (s.setDt (s.reg x)).advance := rfl

theorem exec_ldStVx (x : Nibble) (s : State) : exec (.ldStVx x) s = .next (s.setSt (s.reg x)).advance := rfl

/-! The stack operations where the stack allows them (R140, R142). -/

/-- The stack after a push below 16 entries. -/
def pushed (s : State) (w : Word) : State :=
  { s with stack := s.stack.setIfInBounds s.sp.val w, sp := s.sp + 1 }

/-- The stack after a pop of a stack in use. -/
def popped (s : State) : State := { s with sp := s.sp - 1 }

theorem pushed_sp {s : State} (h : s.sp.val < 16) (w : Word) : (pushed s w).sp.val = s.sp.val + 1 := by
  rw [pushed, Fin.val_add, Fin.val_one, Nat.mod_eq_of_lt (by omega)]

theorem popped_sp {s : State} (h : 0 < s.sp.val) : (popped s).sp.val + 1 = s.sp.val := by
  rw [popped, Fin.sub_val_of_le (by rw [Fin.le_def]; exact h), Fin.val_one]
  omega

theorem push_of_lt {s : State} (h : s.sp.val < 16) (w : Word) : s.push w = some (pushed s w) := by
  have hsp : (⟨s.sp.val + 1, by omega⟩ : Fin 17) = s.sp + 1 := Fin.ext (pushed_sp h w).symm
  have hstack : s.stack.set s.sp.val w h = s.stack.setIfInBounds s.sp.val w :=
    Vector.ext fun k hk => by rw [Vector.getElem_set, Vector.getElem_setIfInBounds]
  rw [State.push, dif_pos h, pushed, hsp, hstack]

theorem pop_of_pos {s : State} (h : 0 < s.sp.val) : s.pop = some (s.stack[s.sp.val - 1], popped s) := by
  have hsp : (⟨s.sp.val - 1, by omega⟩ : Fin 17) = s.sp - 1 := Fin.ext (Nat.sub_eq_of_eq_add (popped_sp h).symm)
  rw [State.pop, dif_neg (by omega), popped, hsp]

/-! Every instruction in one form: it latches the fault it raises, or it has its effect. -/

/-- The state an outcome answers. -/
def nextState (s : State) : Host.Outcome State Fault Refusal → State
  | .next t => t
  | .fault _ => s
  | .refused _ => s

/-- What an instruction leaves when it raises no fault: for the eight that check first, what follows the check; for
every other, what it answers (`exec_eq`). -/
def effect (i : Instr) (s : State) : State :=
  match i with
  | .ret => (popped s).goto s.stack[s.sp.val - 1]
  | .call nnn => (pushed s s.npc).goto (addrWord nnn)
  | .drw x y n =>
    ((s.setFb (blit s.fb (s.drawnPixels x y n)).1).setReg 0xF
      (collisionFlag (blit s.fb (s.drawnPixels x y n)).2)).advance
  | .skp x => s.skipIf (s.keyHeld (keyNumber (s.reg x)))
  | .sknp x => s.skipIf (!s.keyHeld (keyNumber (s.reg x)))
  | .ldB x => (s.setMem (s.mem.writeBytes s.i.toNat (bcdDigits (s.reg x)))).advance
  | .stRegs x => ((s.setMem (s.mem.writeBytes s.i.toNat (s.lowRegs x))).setI (bulkNextI x s)).advance
  | .ldRegs x => ((s.setRegs (s.mem.readBytes s.i.toNat (x.toNat + 1))).setI (bulkNextI x s)).advance
  | i => nextState s (exec i s)

/-! The checks of the meanings are those of the fault table (R240). -/

theorem dataFault_drw (x y n : Nibble) (s : State) : s.dataFault n.toNat = raises (.drw x y n) s := by
  have hn : n = 0 ↔ n.toNat = 0 := BitVec.toNat_inj.symm
  rw [s.dataFault_eq, raises, ← ite_not]
  exact if_congr (by rw [ne_eq, hn]; omega) rfl rfl

theorem dataFault_ldB (x : Nibble) (s : State) : s.dataFault 3 = raises (.ldB x) s := by
  rw [s.dataFault_eq, raises, ← ite_not]
  exact if_congr (by omega) rfl rfl

theorem dataFault_stRegs (x : Nibble) (s : State) : s.dataFault (x.toNat + 1) = raises (.stRegs x) s := by
  rw [s.dataFault_eq, raises, ← ite_not]
  exact if_congr (by omega) rfl rfl

theorem dataFault_ldRegs (x : Nibble) (s : State) : s.dataFault (x.toNat + 1) = raises (.ldRegs x) s :=
  dataFault_stRegs x s

theorem keyFault_skp (x : Nibble) (s : State) : keyFault (s.reg x) = raises (.skp x) s := rfl

theorem keyFault_sknp (x : Nibble) (s : State) : keyFault (s.reg x) = raises (.sknp x) s := rfl

/-- Everything an instruction can do (R123, R244). -/
theorem exec_eq (i : Instr) (s : State) :
    exec i s = .next ((raises i s).elim (effect i s) s.raise) := by
  cases i with
  | ret =>
    by_cases h : s.sp.val = 0
    · simp [exec, execRet, raises, h, s.pop_eq_none_iff.mpr h]
    · simp [exec, execRet, raises, h, pop_of_pos (Nat.pos_of_ne_zero h), effect]
  | call nnn =>
    by_cases h : s.sp.val = 16
    · simp [exec, execCall, raises, h, (s.push_eq_none_iff _).mpr h]
    · simp [exec, execCall, raises, h, push_of_lt (show s.sp.val < 16 by omega), effect]
  | drw x y n => rw [← dataFault_drw]; cases h : s.dataFault n.toNat <;> simp [exec, execDrw, h, effect, flagReg]
  | ldB x => rw [← dataFault_ldB]; cases h : s.dataFault 3 <;> simp [exec, execLdB, h, effect]
  | stRegs x => rw [← dataFault_stRegs]; cases h : s.dataFault (x.toNat + 1) <;> simp [exec, execStRegs, h, effect]
  | ldRegs x => rw [← dataFault_ldRegs]; cases h : s.dataFault (x.toNat + 1) <;> simp [exec, execLdRegs, h, effect]
  | skp x => rw [← keyFault_skp]; cases h : keyFault (s.reg x) <;> simp [exec, execSkp, h, effect]
  | sknp x => rw [← keyFault_sknp]; cases h : keyFault (s.reg x) <;> simp [exec, execSknp, h, effect]
  | _ => rfl

theorem exec_of_raises {i : Instr} {s : State} {f : Fault} (h : raises i s = some f) :
    exec i s = .next (s.raise f) := by
  rw [exec_eq, h, Option.elim_some]

theorem exec_of_raises_none {i : Instr} {s : State} (h : raises i s = none) : exec i s = .next (effect i s) := by
  rw [exec_eq, h, Option.elim_none]

/-- Settles O5: the two stack faults of the fault table. -/
theorem stackFaultsLatch : Obligations.StackFaultsLatch :=
  ⟨fun _ _ h => exec_of_raises (if_pos h), fun _ h => exec_of_raises (if_pos h)⟩

/-- Settles O25: the data range faults of the fault table. -/
theorem dataRangeFaultLatches : Obligations.DataRangeFaultLatches := by
  refine ⟨fun x s h => exec_of_raises (if_pos h),
    fun x s h => ⟨exec_of_raises (if_pos h), exec_of_raises (if_pos h)⟩,
    fun x y n s hn h => exec_of_raises (if_pos ?_)⟩
  refine ⟨fun h0 => ?_, by omega⟩
  rw [h0] at hn
  exact Nat.lt_irrefl 0 hn

/-- Settles O32: the key index faults of the fault table. -/
theorem keyIndexFaultLatches : Obligations.KeyIndexFaultLatches := fun _ _ h =>
  ⟨exec_of_raises (if_pos h), exec_of_raises (if_pos h)⟩

end Sys2Proof.Proofs

namespace Sys2Proof.Proofs

open Sys2Proof.Machine

/-! The frames of the other writes (10_state.md R36). -/

theorem changesOnly_mono {s t : State} {P Q : Part → Prop} (hst : ChangesOnly P s t) (hPQ : ∀ p, P p → Q p) :
    ChangesOnly Q s t := fun p hp => hst p (mt (hPQ p) hp)

theorem changesOnly_refl (s : State) (P : Part → Prop) : ChangesOnly P s s := by
  intro p _
  cases p with
  | input => exact ⟨rfl, rfl⟩
  | _ => rfl

theorem setRegs_changesOnly_regs (s : State) (bs : List Byte) :
    ChangesOnly (fun p => ∃ r : Nibble, r.toNat < bs.length ∧ p = .reg r) s (s.setRegs bs) := by
  intro p hp
  cases p with
  | reg r => rw [Part.Same, State.reg_setRegs, dif_neg fun h => hp ⟨r, h, rfl⟩]
  | _ => simp [Part.Same]

theorem writeBytes_changesOnly_bytes (s : State) (a : Nat) (bs : List Byte) :
    ChangesOnly (fun p => ∃ k < bs.length, p = .byte (a + k)) s (s.setMem (s.mem.writeBytes a bs)) := by
  intro p hp
  cases p with
  | byte b =>
    rw [Part.Same, State.setMem_mem, Memory.read_writeBytes, dif_neg]
    exact fun h => hp ⟨b - a, by omega, by rw [Nat.add_sub_cancel' h.1]⟩
  | _ => simp [Part.Same]

theorem setDt_changesOnly_dt (s : State) (b : Byte) : ChangesOnly (fun p => p = .dt) s (s.setDt b) := by
  intro p hp
  cases p with
  | dt => exact absurd rfl hp
  | _ => simp [Part.Same]

theorem setSt_changesOnly_st (s : State) (b : Byte) : ChangesOnly (fun p => p = .st) s (s.setSt b) := by
  intro p hp
  cases p with
  | st => exact absurd rfl hp
  | _ => simp [Part.Same]

theorem setKeyWait_changesOnly_kws (s : State) (w : KeyWait) :
    ChangesOnly (fun p => p = .kws) s (s.setKeyWait w s.kwKey) := by
  intro p hp
  cases p with
  | kws => exact absurd rfl hp
  | _ => simp [Part.Same]

theorem setKeyWait_changesOnly_kws_kwKey (s : State) (w : KeyWait) (k : Nibble) :
    ChangesOnly (fun p => p = .kws ∨ p = .kwKey) s (s.setKeyWait w k) := by
  intro p hp
  cases p with
  | kws => exact absurd (.inl rfl) hp
  | kwKey => exact absurd (.inr rfl) hp
  | _ => simp [Part.Same]

theorem pushed_changesOnly_sp_entry (s : State) (w : Word) :
    ChangesOnly (fun p => p = .sp ∨ ∃ k : Fin 16, k.val = s.sp.val ∧ p = .entry k) s (pushed s w) := by
  intro p hp
  cases p with
  | sp => exact absurd (.inl rfl) hp
  | entry k =>
    have hk : s.sp.val ≠ k.val := fun h => hp (.inr ⟨k, h.symm, rfl⟩)
    simp [Part.Same, pushed, hk]
  | input => exact ⟨rfl, rfl⟩
  | _ => rfl

theorem popped_changesOnly_sp (s : State) : ChangesOnly (fun p => p = .sp) s (popped s) := by
  intro p hp
  cases p with
  | sp => exact absurd rfl hp
  | input => exact ⟨rfl, rfl⟩
  | _ => rfl

/-! The key-wait (R222). -/

@[simp] theorem stall_eq_self (s : State) : s.stall = s := by
  simp [State.stall, State.goto]

theorem effect_ldVxK_of_held {s : State} (hw : s.kws = .waitingForRelease) (hk : s.keyHeld s.kwKey = true)
    (x : Nibble) : effect (.ldVxK x) s = s := by
  simp [effect, exec, execLdVxK, nextState, State.awaitRelease, hw, hk]

theorem effect_ldVxK_of_released {s : State} (hw : s.kws = .waitingForRelease) (hk : s.keyHeld s.kwKey = false)
    (x : Nibble) : effect (.ldVxK x) s = (s.setKeyWait .idle s.kwKey).advance := by
  simp [effect, exec, execLdVxK, nextState, State.awaitRelease, hw, hk]

theorem effect_ldVxK_of_press {s : State} {k : Nibble} (hw : s.kws ≠ .waitingForRelease) (hk : s.leastHeld = some k)
    (x : Nibble) : effect (.ldVxK x) s = (s.setReg x (k.setWidth 8)).setKeyWait .waitingForRelease k := by
  cases hs : s.kws <;> simp_all [effect, exec, execLdVxK, nextState, State.awaitPress]

theorem effect_ldVxK_of_none {s : State} (hw : s.kws ≠ .waitingForRelease) (hk : s.leastHeld = none) (x : Nibble) :
    effect (.ldVxK x) s = s.setKeyWait .waitingForPress s.kwKey := by
  cases hs : s.kws <;> simp_all [effect, exec, execLdVxK, nextState, State.awaitPress]

/-- The cases of a key-wait cycle: the key seen is held still, or has been released; or no key has been seen, and some
key is held, or none is. -/
theorem keyWait_cases (s : State) :
    (s.kws = .waitingForRelease ∧ s.keyHeld s.kwKey = true) ∨
    (s.kws = .waitingForRelease ∧ s.keyHeld s.kwKey = false) ∨
    (s.kws ≠ .waitingForRelease ∧ ∃ k, s.leastHeld = some k) ∨
    (s.kws ≠ .waitingForRelease ∧ s.leastHeld = none) := by
  by_cases hw : s.kws = .waitingForRelease
  · cases hk : s.keyHeld s.kwKey <;> simp [hw]
  · cases hk : s.leastHeld <;> simp [hw]

theorem effect_ldVxK_changesOnly (x : Nibble) (s : State) :
    ChangesOnly (writes (.ldVxK x) s) s (effect (.ldVxK x) s) := by
  rcases keyWait_cases s with ⟨hw, hk⟩ | ⟨hw, hk⟩ | ⟨hw, k, hk⟩ | ⟨hw, hk⟩
  · rw [effect_ldVxK_of_held hw hk]
    exact changesOnly_refl s _
  · rw [effect_ldVxK_of_released hw hk]
    exact changesOnly_mono (advance_changesOnly (setKeyWait_changesOnly_kws s _)) fun _ hp =>
      hp.imp_right fun h => .inr (.inl h)
  · rw [effect_ldVxK_of_press hw hk]
    exact changesOnly_mono (changesOnly_trans (setReg_changesOnly_reg s x _) (setKeyWait_changesOnly_kws_kwKey _ _ k))
      fun _ => .inr
  · rw [effect_ldVxK_of_none hw hk]
    exact changesOnly_mono (setKeyWait_changesOnly_kws s _) fun _ h => .inr (.inr (.inl h))

/-- An instruction's effect keeps to the writes the matrix lists for it (R38). -/
theorem effect_changesOnly (i : Instr) (s : State) : ChangesOnly (writes i s) s (effect i s) := by
  cases i with
  | cls => exact advance_changesOnly (setFb_changesOnly_pixels s _)
  | ret => exact changesOnly_mono (changesOnly_trans (popped_changesOnly_sp s) (goto_changesOnly_pc _ _)) fun _ => .symm
  | call =>
    exact changesOnly_mono (changesOnly_trans (pushed_changesOnly_sp_entry s _) (goto_changesOnly_pc _ _))
      fun _ => .symm
  | jp | jpV0 | se | sne | seReg | sneReg | skp | sknp => exact changesOnly_mono (goto_changesOnly_pc s _) fun _ => .inl
  | ldImm | addImm | ldReg | rnd | ldVxDt => exact advance_changesOnly (setReg_changesOnly_reg s _ _)
  | orReg | andReg | xorReg | addReg | sub | subn | shr | shl =>
    exact advance_changesOnly (setRegFlag_changesOnly_regs s _ _ _)
  | ldI | addI | ldF => exact advance_changesOnly (setI_changesOnly_i s _)
  | drw =>
    exact advance_changesOnly (changesOnly_mono
      (changesOnly_trans (setFb_changesOnly_pixels s _) (setReg_changesOnly_reg _ _ _)) fun _ => .symm)
  | ldVxK x => exact effect_ldVxK_changesOnly x s
  | ldDtVx => exact advance_changesOnly (setDt_changesOnly_dt s _)
  | ldStVx => exact advance_changesOnly (setSt_changesOnly_st s _)
  | ldB x => exact advance_changesOnly (writeBytes_changesOnly_bytes s s.i.toNat (bcdDigits (s.reg x)))
  | stRegs x =>
    refine advance_changesOnly (changesOnly_mono (changesOnly_trans (writeBytes_changesOnly_bytes s _ _)
      (setI_changesOnly_i _ _)) fun p hp => hp.symm.imp_right ?_)
    simp only [State.lowRegs_length, Nat.lt_succ_iff]
    exact id
  | ldRegs x =>
    refine advance_changesOnly (changesOnly_mono (changesOnly_trans (setRegs_changesOnly_regs s _)
      (setI_changesOnly_i _ _)) fun p hp => hp.symm.imp_right ?_)
    simp only [Memory.readBytes_length, Nat.lt_succ_iff]
    exact id

/-- Settles O42: a fault of the table is latched, and without one the effect keeps to the matrix (R38, R240). -/
theorem instructionsKeepToTheirWrites : Obligations.InstructionsKeepToTheirWrites := fun i s =>
  ⟨fun h => ⟨_, exec_of_raises_none h, effect_changesOnly i s⟩, fun _ h => exec_of_raises h⟩

end Sys2Proof.Proofs

namespace Sys2Proof.Proofs

open Sys2Proof.Machine

/-! Control flow (41_control_flow.md). -/

/-- Settles O2: below 16 entries CALL raises nothing, and its effect is the push and the jump (R142). -/
theorem callPushesReturnAddress : Obligations.CallPushesReturnAddress := by
  intro nnn s h
  refine ⟨_, exec_of_raises_none (if_neg (by omega)), ?_, pushed_sp h s.npc, addrWord_toNat nnn,
    effect_changesOnly (.call nnn) s⟩
  simp [effect, pushed, h, s.npc_eq]

/-- Settles O3: with an entry in use RET raises nothing, and its effect is the pop (R140). -/
theorem retPopsReturnAddress : Obligations.RetPopsReturnAddress := fun s h =>
  ⟨_, exec_of_raises_none (if_neg (by omega)), popped_sp h,
    Vector.getElem?_eq_getElem _, effect_changesOnly .ret s⟩

/-- Settles O4: the RET pops the entry of the CALL, which stands at the SP the CALL found (R140, R142). -/
theorem callThenRetReturns : Obligations.CallThenRetReturns := by
  intro nnn s h
  obtain ⟨t, ht, hentry, hsp, -, -⟩ := callPushesReturnAddress nnn s h
  refine ⟨t, ht, fun u hstack husp => ?_⟩
  have hval : u.sp.val = s.sp.val + 1 := by rw [husp, hsp]
  obtain ⟨w, hw, hwsp, hwpc, -⟩ := retPopsReturnAddress u (by omega)
  refine ⟨w, hw, ?_, Fin.ext (by omega)⟩
  rw [hstack, hval, Nat.add_sub_cancel, hentry] at hwpc
  exact (Option.some.inj hwpc).symm

/-- The target of JP_V0 is too small to wrap at 16 bits (R148). -/
theorem addrWord_add_byteWord_toNat (nnn : Addr12) (b : Byte) :
    (addrWord nnn + byteWord b).toNat = nnn.toNat + b.toNat := by
  have := nnn.isLt
  have := b.isLt
  rw [BitVec.toNat_add, addrWord_toNat, byteWord_toNat]
  omega

/-- Settles O8: the jump is one `goto`, to the unreduced sum (R148). -/
theorem jumpWithOffset : Obligations.JumpWithOffset := fun nnn s =>
  ⟨_, exec_jpV0 nnn s, addrWord_add_byteWord_toNat nnn _, goto_changesOnly_pc s _⟩

/-! Register copy, reversed subtraction, shifts and random byte (42_alu.md). -/

/-- Settles O11: the copy is one register write (R163). -/
theorem copyRegister : Obligations.CopyRegister := fun x y s => exec_writes_reg (exec_ldReg x y s)

/-- Settles O15: the subtraction of O14 with its operands exchanged (R170). -/
theorem reverseSubSetsNoBorrow : Obligations.ReverseSubSetsNoBorrow := by
  intro x y s
  obtain ⟨t, ht, hflag, hx, hpc, hframe⟩ := exec_writes_reg_flag (exec_subn x y s)
  exact ⟨t, ht, by rw [hflag, noBorrowFlag_toNat], fun hne => by rw [hx hne, byte_sub_toNat], hpc, hframe⟩

/-- Settles O16: each shift writes `VY` shifted by one and then the bit it moved out (R169, R171). -/
theorem shiftsTakeVy : Obligations.ShiftsTakeVy := by
  intro x y s
  obtain ⟨t, ht, hflag, hx, hpc, hframe⟩ := exec_writes_reg_flag (exec_shr x y s)
  obtain ⟨u, hu, hflag', hx', hpc', hframe'⟩ := exec_writes_reg_flag (exec_shl x y s)
  exact ⟨⟨t, ht, by rw [hflag, shiftRightFlag_toNat],
      fun hne => by rw [hx hne, BitVec.toNat_ushiftRight, Nat.shiftRight_one], hpc, hframe⟩,
    u, hu, by rw [hflag', shiftLeftFlag_toNat],
      fun hne => by rw [hx' hne, BitVec.toNat_shiftLeft, Nat.shiftLeft_eq, pow_one], hpc', hframe'⟩

/-- Settles O17: one register write, of the supplied byte masked (R172). -/
theorem randomIsMasked : Obligations.RandomIsMasked := fun x nn keys r s =>
  exec_writes_reg (exec_rnd x nn (supply keys r s))

/-! Index register and memory (43_index_memory.md). -/

/-- Settles O19: one write of the index register, of the 16-bit sum (R182). -/
theorem addToIndexWraps : Obligations.AddToIndexWraps := by
  intro x s
  obtain ⟨t, ht, hi, hpc, hframe⟩ := exec_writes_i (exec_addI x s)
  exact ⟨t, ht, by rw [hi, BitVec.toNat_add, byteWord_toNat], hpc, hframe⟩

/-- Settles O20: one write of the index register, of the glyph's address (R183). -/
theorem fontAddress : Obligations.FontAddress := by
  intro x s
  obtain ⟨t, ht, hi, hpc, hframe⟩ := exec_writes_i (exec_ldF x s)
  exact ⟨t, ht, by rw [hi, glyphAddr_toNat], hpc, hframe⟩

/-- A byte of a range store, where it was stored (R62). -/
theorem read_writeBytes_add {bs : List Byte} {k : Nat} (hk : k < bs.length) (m : Memory) (a : Nat) :
    (m.writeBytes a bs).read (a + k) = bs[k] := by
  rw [Memory.read_writeBytes, dif_pos (by omega)]
  congr 1
  omega

/-- Settles O21: in range LD_B raises nothing, and its effect is the store of the three digits (R184). -/
theorem bcdStoresDigits : Obligations.BcdStoresDigits := by
  intro x s h
  obtain ⟨hlen, hundreds, tens, ones⟩ := bcdDigits_getElem (s.reg x)
  have hread {k : Nat} (hk : k < (bcdDigits (s.reg x)).length) :
      (effect (.ldB x) s).mem.read (s.i.toNat + k) = (bcdDigits (s.reg x))[k] := read_writeBytes_add hk _ _
  refine ⟨_, exec_of_raises_none (if_neg (by omega)), ?_, ?_, ?_, s.npc_eq, effect_changesOnly (.ldB x) s⟩
  · exact (congrArg BitVec.toNat (hread (k := 0) (by omega))).trans hundreds
  · exact (congrArg BitVec.toNat (hread (k := 1) (by omega))).trans tens
  · exact (congrArg BitVec.toNat (hread (k := 2) (by omega))).trans ones

/-- The index register past a bulk transfer (R185). -/
theorem bulkNextI_toNat (x : Nibble) (s : State) :
    (bulkNextI x s).toNat = (s.i.toNat + x.toNat + 1) % 65536 := by
  rw [bulkNextI, BitVec.toNat_add, BitVec.toNat_ofNat]
  omega

/-- Settles O22: in range ST_REGS raises nothing, and its effect is the store of `V0..VX` in register order (R186). -/
theorem bulkStoreWritesRegisters : Obligations.BulkStoreWritesRegisters := by
  intro x s h
  refine ⟨_, exec_of_raises_none (if_neg (by omega)), fun r hr => ?_, bulkNextI_toNat x s, s.npc_eq,
    effect_changesOnly (.stRegs x) s⟩
  have hk : r.toNat < (s.lowRegs x).length := by rw [s.lowRegs_length]; omega
  refine (read_writeBytes_add hk s.mem s.i.toNat).trans ?_
  rw [s.lowRegs_getElem, BitVec.ofNat_toNat, BitVec.setWidth_eq]

/-- Settles O23: in range LD_REGS raises nothing, and its effect is the load of `V0..VX` in register order (R187). -/
theorem bulkLoadReadsRegisters : Obligations.BulkLoadReadsRegisters := by
  intro x s h
  refine ⟨_, exec_of_raises_none (if_neg (by omega)), fun r hr => ?_, bulkNextI_toNat x s, s.npc_eq,
    effect_changesOnly (.ldRegs x) s⟩
  have hk : r.toNat < (s.mem.readBytes s.i.toNat (x.toNat + 1)).length := by rw [Memory.readBytes_length]; omega
  refine (s.reg_setRegs _ r).trans ?_
  rw [dif_pos hk, Memory.readBytes_getElem]

/-- Settles O24: the load of O23 reads the bytes that the store of O22 wrote, register by register. -/
theorem bulkRoundTrip : Obligations.BulkRoundTrip := by
  intro x s h
  obtain ⟨t, ht, hstored, -⟩ := bulkStoreWritesRegisters x s h
  refine ⟨t, ht, fun u hmem hi => ?_⟩
  obtain ⟨w, hw, hloaded, -⟩ := bulkLoadReadsRegisters x u (hi ▸ h)
  exact ⟨w, hw, fun r hr => by rw [hloaded r hr, hmem, hi, hstored r hr]⟩

/-- Settles O26: the next fetch reads the first two bytes of the store of O22 (R63, R74). -/
theorem storeSeenByNextFetch : Obligations.StoreSeenByNextFetch := by
  intro x s hx hi h
  obtain ⟨t, ht, hstored, -, hpc, -⟩ := bulkStoreWritesRegisters x s h
  have h0 : t.mem.read s.i.toNat = s.reg 0x0 := hstored 0x0 (Nat.zero_le _)
  have h1 : t.mem.read (s.i.toNat + 1) = s.reg 0x1 := hstored 0x1 hx
  refine ⟨t, ht, ?_⟩
  have := (s.reg 0x0).isLt
  have := (s.reg 0x1).isLt
  rw [wordAtPc, hpc, ← hi, h0, h1, BitVec.toNat_ofNat]
  omega

/-! Keypad and timers (45_keypad_timers.md). -/

/-- Settles O31: with the index on the keypad the skip is decided by the supplied snapshot (R220, R221). -/
theorem skipOnKey : Obligations.SkipOnKey := by
  intro x keys r s hx
  have hraise : ¬ 15 < (s.reg x).toNat := by omega
  have hheld : (supply keys r s).keyHeld (keyNumber (s.reg x)) = true ↔ keys.getLsbD (s.reg x).toNat = true := by
    rw [← keyNumber_toNat (s.reg x) hx]; rfl
  have hnot : (!(supply keys r s).keyHeld (keyNumber (s.reg x))) = true ↔ ¬ keys.getLsbD (s.reg x).toNat = true := by
    rw [Bool.not_eq_true', ← Bool.not_eq_true, hheld]
  exact ⟨exec_skips_iff (exec_of_raises_none (i := .skp x) (if_neg hraise)) hheld,
    exec_skips_iff_not (exec_of_raises_none (i := .sknp x) (if_neg hraise)) hnot⟩

/-- The least key held, read off the snapshot of the cycle (R32, R222). -/
theorem leastHeld_of_forall_lt {s : State} {k : Nat} (hk : k < 16) (hheld : s.input.keys.getLsbD k = true)
    (hlt : ∀ j < k, s.input.keys.getLsbD j = false) : s.leastHeld = some (BitVec.ofNat 4 k) := by
  have hkn : (BitVec.ofNat 4 k).toNat = k := by rw [BitVec.toNat_ofNat]; omega
  rw [s.leastHeld_eq_some_iff, State.keyHeld, hkn]
  exact ⟨hheld, fun j hj => hlt j.toNat hj⟩

/-- Settles O33: the four cases of a key-wait cycle, the least key held read off the snapshot (R222). -/
theorem keyWaitCycle : Obligations.KeyWaitCycle := by
  intro x s
  refine ⟨effect (.ldVxK x) s, exec_of_raises_none rfl, ?_⟩
  rcases keyWait_cases s with ⟨hw, hk⟩ | ⟨hw, hk⟩ | ⟨hw, k, hk⟩ | ⟨hw, hk⟩
  · rw [effect_ldVxK_of_held hw hk, if_pos hw, if_pos (show s.input.keys.getLsbD s.kwKey.toNat = true from hk)]
    exact changesOnly_refl s _
  · rw [effect_ldVxK_of_released hw hk, if_pos hw, show s.input.keys.getLsbD s.kwKey.toNat = false from hk,
      if_neg Bool.false_ne_true]
    exact ⟨rfl, s.npc_eq, advance_changesOnly (setKeyWait_changesOnly_kws s _)⟩
  · rw [effect_ldVxK_of_press hw hk, if_neg hw]
    refine ⟨fun j hj hheld hlt => ?_, fun hnone => ?_⟩
    · obtain rfl : k = BitVec.ofNat 4 j := Option.some.inj (hk.symm.trans (leastHeld_of_forall_lt hj hheld hlt))
      refine ⟨?_, ?_, rfl,
        changesOnly_trans (setReg_changesOnly_reg s x _) (setKeyWait_changesOnly_kws_kwKey _ _ _)⟩
      · simp; omega
      · simp; omega
    · have hheld := ((s.leastHeld_eq_some_iff k).mp hk).1
      exact absurd ((hnone k.toNat k.isLt).symm.trans hheld) Bool.false_ne_true
  · rw [effect_ldVxK_of_none hw hk, if_neg hw]
    refine ⟨fun j hj hheld hlt => ?_, fun _ => ⟨rfl, setKeyWait_changesOnly_kws s _⟩⟩
    exact absurd (hk.symm.trans (leastHeld_of_forall_lt hj hheld hlt)) nofun

/-- Settles O35: the write of `DT` raises no fault, so the tick follows (R125, R226). -/
theorem writeDelayTimer : Obligations.WriteDelayTimer := fun x s =>
  ⟨⟨_, exec_ldDtVx x s, rfl, s.npc_eq, advance_changesOnly (setDt_changesOnly_dt s _)⟩,
    fun hs hi => ⟨_, step_of_exec s hs hi (exec_ldDtVx x s) hs, tickTimer_toNat _⟩⟩

/-- Settles O36: the write of `ST` raises no fault, so the tick follows (R125, R225). -/
theorem writeSoundTimer : Obligations.WriteSoundTimer := fun x s =>
  ⟨⟨_, exec_ldStVx x s, rfl, s.npc_eq, advance_changesOnly (setSt_changesOnly_st s _)⟩,
    fun hs hi => ⟨_, step_of_exec s hs hi (exec_ldStVx x s) hs, tickTimer_toNat _⟩⟩

end Sys2Proof.Proofs

namespace Sys2Proof.Proofs

open Sys2Proof.Machine

/-! The cycle (40_cycle.md). -/

/-- Settles O41: the guard of the cycle (R127, R248). -/
theorem haltedCoreStaysHalted : Obligations.HaltedCoreStaysHalted := by
  intro s f hf
  simp only [step, cycle, hf]

/-- Settles O37: the instruction answers a next state, which ends the cycle unless it latched a fault (R120, R127). -/
theorem stepRunsDecodedInstruction : Obligations.StepRunsDecodedInstruction := by
  intro s i hs hi
  obtain ⟨t, ht⟩ := exec_next s i
  rw [ht]
  cases hf : t.fault with
  | none =>
    rw [step_of_exec s hs hi ht hf]
    dsimp only
    rw [if_pos hf]
    cases i <;> rfl
  | some f =>
    rw [step_of_exec_fault s hs hi ht hf]
    dsimp only
    rw [if_neg (hf ▸ Option.some_ne_none f)]

theorem effect_fault (i : Instr) (s : State) : (effect i s).fault = s.fault :=
  effect_changesOnly i s .fault (by cases i <;> simp [writes])

/-- The fault of a cycle that fetches and decodes is that of its instruction (R240, R247). -/
theorem stepRaises_of_atPc {s : State} {i : Instr} (hi : AtPc s i) : stepRaises s = raises i s := by
  obtain ⟨hpc, hd⟩ := hi
  rw [stepRaises, if_neg (by omega), if_pos (validWord_of_decode hd), hd]

/-- Everything a running core's step can do: the fault of the cycle latched, or the effect of the instruction at `pc`
and the end of the cycle. -/
theorem step_of_running {s : State} (hs : Running s) :
    (∃ f, stepRaises s = some f ∧ step s = .next (s.raise f)) ∨
    ∃ i, AtPc s i ∧ raises i s = none ∧ stepRaises s = none ∧
      step s = .next ((effect i s).endCycle (draws i)) := by
  have hstep {f : Fault} (h : fetchInstr s = .error f) : step s = .next (s.raise f) := by
    simp only [step, cycle, show s.fault = none from hs, h]
  rcases fetchInstr_cases s with ⟨hpc, h⟩ | ⟨hpc, hd, h⟩ | ⟨i, hi, -⟩
  · exact .inl ⟨_, if_pos hpc, hstep h⟩
  · refine .inl ⟨_, ?_, hstep h⟩
    rw [stepRaises, if_neg (by omega), validWord_of_decode_error hd, if_neg Bool.false_ne_true]
  · cases hr : raises i s with
    | some f =>
      exact .inl ⟨f, (stepRaises_of_atPc hi).trans hr, step_of_exec_fault s hs hi (exec_of_raises hr) rfl⟩
    | none =>
      exact .inr ⟨i, hi, hr, (stepRaises_of_atPc hi).trans hr,
        step_of_exec s hs hi (exec_of_raises_none hr) ((effect_fault i s).trans hs)⟩

/-- Settles O40: the two cases of a running core's step (R127, R247). -/
theorem faultingCycleCommitsNothing : Obligations.FaultingCycleCommitsNothing := by
  intro s hs
  rcases step_of_running hs with ⟨f, hr, h⟩ | ⟨i, -, -, hr, h⟩
  · refine ⟨fun g hg => ?_, fun hn => absurd (hn.symm.trans hr) nofun⟩
    obtain rfl : f = g := Option.some.inj (hr.symm.trans hg)
    exact h
  · refine ⟨fun g hg => absurd (hr.symm.trans hg) nofun, fun _ => ⟨_, h, ?_⟩⟩
    rw [State.endCycle_fault, effect_fault]
    exact hs

/-! The timers (R125): an instruction that does not write one leaves it to the tick. -/

theorem effect_dt {i : Instr} (h : ∀ x, i ≠ .ldDtVx x) (s : State) : (effect i s).dt = s.dt :=
  effect_changesOnly i s .dt (by cases i <;> simp_all [writes])

theorem effect_st {i : Instr} (h : ∀ x, i ≠ .ldStVx x) (s : State) : (effect i s).st = s.st :=
  effect_changesOnly i s .st (by cases i <;> simp_all [writes])

/-- Settles O39: a cycle without a fault ends in the tick, on the timers its instruction left. -/
theorem timersTickEveryCycle : Obligations.TimersTickEveryCycle := by
  intro s t i hs hi hstep hf
  obtain ⟨u, hu, huf, rfl⟩ := exec_of_step_of_fault_none hs hi hstep hf
  obtain rfl : u = effect i s := by
    cases hr : raises i s with
    | none => exact Host.Outcome.next.inj (hu.symm.trans (exec_of_raises_none hr))
    | some f => rw [exec_of_raises hr] at hu; cases hu; cases huf
  rw [State.endCycle_dt, State.endCycle_st, tickTimer_toNat, tickTimer_toNat]
  refine ⟨?_, fun h => by rw [effect_dt h], ?_, fun h => by rw [effect_st h]⟩
  · rintro x rfl; rfl
  · rintro x rfl; rfl

/-! The invariants. -/

/-- An invariant of the step: kept by the latch of a fault, by the effect of the instruction at `pc`, and by the end of
a cycle. -/
theorem step_keeps {P : State → Prop} (hraise : ∀ s f, P s → P (s.raise f)) (hend : ∀ s d, P s → P (s.endCycle d))
    (heffect : ∀ s i, P s → AtPc s i → raises i s = none → P (effect i s)) :
    ∀ s t, P s → step s = .next t → P t := by
  intro s t hs hstep
  cases hf : s.fault with
  | some f =>
    obtain rfl := Host.Outcome.next.inj ((haltedCoreStaysHalted s f hf).symm.trans hstep)
    exact hs
  | none =>
    rcases step_of_running hf with ⟨f, -, h⟩ | ⟨i, hi, hr, -, h⟩
    all_goals obtain rfl := Host.Outcome.next.inj (h.symm.trans hstep)
    · exact hraise s f hs
    · exact hend _ _ (heffect s i hs hi hr)

theorem effect_ldVxK_mem (x : Nibble) (s : State) : (effect (.ldVxK x) s).mem = s.mem := by
  rcases keyWait_cases s with ⟨hw, hk⟩ | ⟨hw, hk⟩ | ⟨hw, k, hk⟩ | ⟨hw, hk⟩
  · rw [effect_ldVxK_of_held hw hk]
  · rw [effect_ldVxK_of_released hw hk]; rfl
  · rw [effect_ldVxK_of_press hw hk]; rfl
  · rw [effect_ldVxK_of_none hw hk]; rfl

/-- Only the stores write memory, and in range they keep its canonical form (20_memory.md R60). -/
theorem effect_memoryCanonical {i : Instr} {s : State} (hs : MemoryCanonical s) (hr : raises i s = none) :
    MemoryCanonical (effect i s) := by
  cases i with
  | ldB x =>
    have hi : s.i.toNat + 2 ≤ 0xFFF := by simpa [raises] using hr
    exact Memory.writeBytes_wf (bcdDigits (s.reg x)) s.mem _ hs (Nat.succ_le_succ hi)
  | stRegs x =>
    have hi : s.i.toNat + x.toNat ≤ 0xFFF := by simpa [raises] using hr
    exact Memory.writeBytes_wf (s.lowRegs x) s.mem _ hs (by rw [s.lowRegs_length]; omega)
  | ldVxK x => rw [MemoryCanonical, effect_ldVxK_mem]; exact hs
  | _ => exact hs

/-- Settles O53: memory is written by the stores alone, in range (R60, R64). -/
theorem stepKeepsMemoryCanonical : Obligations.StepKeepsMemoryCanonical :=
  step_keeps (fun _ _ hs => hs) (fun _ _ hs => hs) fun _ _ hs _ hr => effect_memoryCanonical hs hr

/-! The key-wait (R223). -/

theorem effect_kws {i : Instr} (h : ∀ x, i ≠ .ldVxK x) (s : State) : (effect i s).kws = s.kws :=
  effect_changesOnly i s .kws (by cases i <;> simp_all [writes])

/-- Which instruction is at `pc` depends on `pc` and memory alone (R121). -/
theorem atPc_congr {s t : State} {i : Instr} (hpc : t.pc = s.pc) (hmem : t.mem = s.mem) (hi : AtPc s i) :
    AtPc t i := by
  rw [AtPc, wordAtPc, hpc, hmem]
  exact hi

/-- A key-wait that goes on leaves itself at `pc`, and its register with the key seen (R223 (f), (j)). -/
theorem effect_ldVxK_keyWaitCoherent {x : Nibble} {s : State} (hs : KeyWaitCoherent s) (hi : AtPc s (.ldVxK x)) :
    KeyWaitCoherent (effect (.ldVxK x) s) := by
  have hmem := effect_ldVxK_mem x s
  rcases keyWait_cases s with ⟨hw, hk⟩ | ⟨hw, hk⟩ | ⟨hw, k, hk⟩ | ⟨hw, hk⟩
  · rwa [effect_ldVxK_of_held hw hk]
  · rw [effect_ldVxK_of_released hw hk]
    exact fun hkws => absurd rfl hkws
  · rw [effect_ldVxK_of_press hw hk] at hmem ⊢
    refine fun _ => ⟨x, atPc_congr rfl hmem hi, fun _ => ?_⟩
    have := k.isLt
    simp; omega
  · rw [effect_ldVxK_of_none hw hk] at hmem ⊢
    exact fun _ => ⟨x, atPc_congr rfl hmem hi, nofun⟩

theorem effect_keyWaitCoherent {i : Instr} {s : State} (hs : KeyWaitCoherent s) (hi : AtPc s i) :
    KeyWaitCoherent (effect i s) := by
  by_cases hx : ∃ x, i = .ldVxK x
  · obtain ⟨x, rfl⟩ := hx
    exact effect_ldVxK_keyWaitCoherent hs hi
  · intro hkws
    rw [effect_kws (not_exists.mp hx)] at hkws
    obtain ⟨x, hx', -⟩ := hs hkws
    exact absurd ⟨x, hi.unique hx'⟩ hx

/-- Settles O54: while a key-wait is under way it is the instruction at `pc`, and only it changes `KWS`. -/
theorem stepKeepsKeyWaitCoherent : Obligations.StepKeepsKeyWaitCoherent :=
  step_keeps (fun _ _ hs => hs) (fun _ _ hs => hs) fun _ _ hs hi _ => effect_keyWaitCoherent hs hi

/-! The addresses (R23, R140). -/

/-- Where an instruction fetched from memory leaves `pc`: at most two instructions on, at a target, or at an entry of the
stack. The greatest is the target of JP_V0. -/
theorem effect_pc_le {i : Instr} {s : State} (hstack : ∀ k : Fin 16, s.stack[k].toNat ≤ 0x1000)
    (hpc : s.pc.toNat + 1 < 4096) : (effect i s).pc.toNat ≤ 0x10FE := by
  have hnpc : s.npc.toNat ≤ 0x10FE := by rw [s.npc_toNat]; omega
  have hskip (c : Bool) : (s.skipIf c).pc.toNat ≤ 0x10FE := by
    rw [s.skipIf_pc]
    split <;> simp <;> omega
  have htarget (nnn : Addr12) : (addrWord nnn).toNat ≤ 0x10FE := by
    rw [addrWord_toNat]; have := nnn.isLt; omega
  cases i with
  | jp nnn | call nnn => exact htarget nnn
  | jpV0 nnn =>
    refine (addrWord_add_byteWord_toNat nnn (s.reg 0x0)).trans_le ?_
    have := nnn.isLt
    have := (s.reg 0x0).isLt
    omega
  | ret => exact (hstack ⟨s.sp.val - 1, by omega⟩).trans (by decide)
  | se | sne | seReg | sneReg | skp | sknp => exact hskip _
  | ldVxK x =>
    have hown : s.pc.toNat ≤ 0x10FE := by omega
    rcases keyWait_cases s with ⟨hw, hk⟩ | ⟨hw, hk⟩ | ⟨hw, k, hk⟩ | ⟨hw, hk⟩
    · rw [effect_ldVxK_of_held hw hk]; exact hown
    · rw [effect_ldVxK_of_released hw hk]; exact hnpc
    · rw [effect_ldVxK_of_press hw hk]; exact hown
    · rw [effect_ldVxK_of_none hw hk]; exact hown
  | _ => exact hnpc

/-- Only CALL writes the stack, the address after it (R142). -/
theorem effect_stack_le {i : Instr} {s : State} (hstack : ∀ k : Fin 16, s.stack[k].toNat ≤ 0x1000)
    (hpc : s.pc.toNat + 1 < 4096) (k : Fin 16) : (effect i s).stack[k].toNat ≤ 0x1000 := by
  by_cases hk : writes i s (.entry k)
  · obtain ⟨nnn, rfl⟩ : ∃ nnn, i = .call nnn := by cases i <;> simp_all [writes]
    have hpush : (pushed s s.npc).stack[k].toNat ≤ 0x1000 := by
      simp only [pushed, Fin.getElem_fin, Vector.getElem_setIfInBounds]
      split
      · rw [s.npc_toNat]; omega
      · exact hstack k
    exact hpush
  · rw [effect_changesOnly i s (.entry k) hk]
    exact hstack k

/-- Settles O55: a running cycle's `pc` is fetched from memory, so neither the next address nor a target passes the
bound. -/
theorem stepKeepsAddressesBounded : Obligations.StepKeepsAddressesBounded :=
  step_keeps (fun _ _ hs => hs) (fun _ _ hs => hs)
    fun _ _ ⟨_, hstack⟩ ⟨hpc, _⟩ _ => ⟨effect_pc_le hstack hpc, effect_stack_le hstack hpc⟩

/-- Settles O56: nothing is listed in memory, no key-wait is under way, and the entries are zero. -/
theorem resetMeetsInvariants : Obligations.ResetMeetsInvariants := by
  refine ⟨rfl, rfl, fun h => absurd rfl h, by decide, fun k => ?_⟩
  simp [State.reset]

end Sys2Proof.Proofs

namespace Sys2Proof.Proofs

open Sys2Proof.Machine

/-! What an instruction does not read (R38): its fault and its effect are the same on a state with that piece
replaced. -/

/-- The state with the supplied inputs replaced. -/
def withInputs (l : List Input) (s : State) : State := { s with inputs := l }

theorem raises_withInputs (i : Instr) (l : List Input) (s : State) : raises i (withInputs l s) = raises i s := by
  cases i <;> rfl

theorem leastHeld_withInputs {l : List Input} {s : State} (h : (withInputs l s).input.keys = s.input.keys) :
    (withInputs l s).leastHeld = s.leastHeld := by
  simp only [State.leastHeld, State.keyHeld, h]

/-- The inputs are read by RND and the keypad instructions alone: by RND the random byte, by these the snapshot. -/
theorem effect_withInputs {i : Instr} {l : List Input} {s : State}
    (hkeys : (withInputs l s).input.keys = s.input.keys ∨
      (∀ x, i ≠ .skp x) ∧ (∀ x, i ≠ .sknp x) ∧ ∀ x, i ≠ .ldVxK x)
    (hrnd : (withInputs l s).input.rnd = s.input.rnd ∨ ∀ x nn, i ≠ .rnd x nn) :
    effect i (withInputs l s) = withInputs l (effect i s) := by
  cases i with
  | rnd x nn =>
    have hr := hrnd.resolve_right fun h => h x nn rfl
    simp only [effect, exec_rnd, nextState, State.rnd, hr]; rfl
  | skp x =>
    have hk := hkeys.resolve_right fun h => h.1 x rfl
    simp only [effect, State.keyHeld, hk]; rfl
  | sknp x =>
    have hk := hkeys.resolve_right fun h => h.2.1 x rfl
    simp only [effect, State.keyHeld, hk]; rfl
  | ldVxK x =>
    have hk := hkeys.resolve_right fun h => h.2.2 x rfl
    have hheld : (withInputs l s).keyHeld s.kwKey = s.keyHeld s.kwKey := by rw [State.keyHeld, hk]; rfl
    have hleast := leastHeld_withInputs hk
    rcases keyWait_cases s with ⟨hw, hk⟩ | ⟨hw, hk⟩ | ⟨hw, k, hk⟩ | ⟨hw, hk⟩
    · rw [effect_ldVxK_of_held hw hk]; exact effect_ldVxK_of_held (s := withInputs l s) hw (hheld.trans hk) x
    · rw [effect_ldVxK_of_released hw hk]; exact effect_ldVxK_of_released (s := withInputs l s) hw (hheld.trans hk) x
    · rw [effect_ldVxK_of_press hw hk]; exact effect_ldVxK_of_press (s := withInputs l s) hw (hleast.trans hk) x
    · rw [effect_ldVxK_of_none hw hk]; exact effect_ldVxK_of_none (s := withInputs l s) hw (hleast.trans hk) x
  | _ => rfl

/-- Where the effect does not depend on the inputs, nothing does: no fault reads them. -/
theorem exec_withInputs {i : Instr} {l : List Input} {s t : State}
    (heff : effect i (withInputs l s) = withInputs l (effect i s)) (ht : exec i s = .next t) :
    exec i (withInputs l s) = .next (withInputs l t) := by
  rw [exec_eq] at ht ⊢
  obtain rfl := Host.Outcome.next.inj ht
  rw [raises_withInputs]
  cases raises i s with
  | some f => rfl
  | none => rw [Option.elim_none, heff]; rfl

/-- Settles O43: the two supplied inputs have the same snapshot, and RND alone reads more. -/
theorem onlyRndReadsTheRandomByte : Obligations.OnlyRndReadsTheRandomByte := by
  intro i s keys r r' hrnd
  obtain ⟨t, ht⟩ := exec_next (supply keys r s) i
  have heff := effect_withInputs (i := i) (l := ⟨keys, r'⟩ :: s.inputs) (s := supply keys r s)
    (.inl rfl) (.inr hrnd)
  have hexec := exec_withInputs heff ht
  exact ⟨t, ht, hexec⟩

/-- Settles O44: the two supplied inputs have the same random byte, and the keypad instructions alone read more. -/
theorem onlyKeypadInstructionsReadKeys : Obligations.OnlyKeypadInstructionsReadKeys := by
  intro i s keys keys' r hskp hsknp hwait
  obtain ⟨t, ht⟩ := exec_next (supply keys r s) i
  have heff := effect_withInputs (i := i) (l := ⟨keys', r⟩ :: s.inputs) (s := supply keys r s)
    (.inr ⟨hskp, hsknp, hwait⟩) (.inl rfl)
  have hexec := exec_withInputs heff ht
  exact ⟨t, ht, hexec⟩

/-- The state with `ST` and `DIRTY` replaced. -/
def withSoundDirty (b : Byte) (d : Bool) (s : State) : State := { s with st := b, dirty := d }

theorem raises_withSoundDirty (i : Instr) (b : Byte) (d : Bool) (s : State) :
    raises i (withSoundDirty b d s) = raises i s := by
  cases i <;> rfl

/-- No effect reads `ST` or `DIRTY`; whether it writes them or leaves them, nothing else differs. -/
theorem effect_withSoundDirty (i : Instr) (b : Byte) (d : Bool) (s : State) :
    withSoundDirty (effect i s).st (effect i s).dirty (effect i (withSoundDirty b d s)) = effect i s := by
  cases i with
  | ldVxK x =>
    rcases keyWait_cases s with ⟨hw, hk⟩ | ⟨hw, hk⟩ | ⟨hw, k, hk⟩ | ⟨hw, hk⟩
    · rw [effect_ldVxK_of_held hw hk, effect_ldVxK_of_held (s := withSoundDirty b d s) hw hk]; rfl
    · rw [effect_ldVxK_of_released hw hk, effect_ldVxK_of_released (s := withSoundDirty b d s) hw hk]; rfl
    · rw [effect_ldVxK_of_press hw hk, effect_ldVxK_of_press (s := withSoundDirty b d s) hw hk]; rfl
    · rw [effect_ldVxK_of_none hw hk, effect_ldVxK_of_none (s := withSoundDirty b d s) hw hk]; rfl
  | _ => rfl

/-- Settles O45: no fault and no effect reads `ST` or `DIRTY`. -/
theorem noInstructionReadsSoundTimerOrDirty : Obligations.NoInstructionReadsSoundTimerOrDirty := by
  intro i s b d
  refine ⟨_, _, exec_eq i s, exec_eq i (withSoundDirty b d s), ?_⟩
  rw [raises_withSoundDirty]
  cases raises i s with
  | some f => rfl
  | none => exact effect_withSoundDirty i b d s

end Sys2Proof.Proofs

namespace Sys2Proof.Proofs

open Sys2Proof.Machine

/-! The draw (R201): the pixels of its list are those the sprite covers. -/

theorem mem_drawnPixels {x y n : Nibble} {s : State} {px py : Nat} :
    (px, py) ∈ s.drawnPixels x y n ↔ px < 64 ∧ py < 32 ∧ spriteCovers s x y n px py = true := by
  simp only [State.drawnPixels, mem_spritePixels, Memory.readBytes_length, Memory.readBytes_getElem, spriteCovers,
    Bool.and_eq_true, decide_eq_true_eq]
  constructor
  · rintro ⟨k, hk, rfl, hscreen, hpx, hleft, hright, hbit⟩
    refine ⟨hpx, hscreen, ⟨⟨⟨hleft, hright⟩, by omega⟩, by omega⟩, ?_⟩
    rwa [Nat.add_sub_cancel_left]
  · rintro ⟨hpx, hpy, ⟨⟨⟨hleft, hright⟩, htop⟩, hbottom⟩, hbit⟩
    exact ⟨py - (s.reg y).toNat, by omega, by omega, by omega, hpx, hleft, hright, hbit⟩

/-- Some pixel that the sprite covers on the screen holds `b` in the framebuffer of `t`. -/
def CoversSome (x y n : Nibble) (s t : State) (b : Bool) : Prop :=
  ∃ px < 64, ∃ py < 32, spriteCovers s x y n px py = true ∧ t.pixel px py = b

/-- Every pixel of the screen is inverted exactly when the sprite covers it. -/
theorem effect_drw_pixel (x y n : Nibble) (s : State) {px py : Nat} (hpx : px < 64) (hpy : py < 32) :
    (effect (.drw x y n) s).pixel px py = (s.pixel px py ^^ spriteCovers s x y n px py) := by
  refine ((blit_sprite _ _ _ _).1 px py).trans (congrArg _ ?_)
  rw [Bool.eq_iff_iff, decide_eq_true_eq]
  exact mem_drawnPixels.trans (by simp [hpx, hpy])

/-- The flag tells whether a covered pixel was set. -/
theorem effect_drw_flag (x y n : Nibble) (s : State) :
    ∃ c : Bool, (effect (.drw x y n) s).reg 0xF = flagByte c ∧ (c = true ↔ CoversSome x y n s s true) := by
  refine ⟨_, State.reg_setReg_self _ _ _, ?_⟩
  rw [show (blit s.fb (s.drawnPixels x y n)).2 = _ from (blit_sprite _ _ _ _).2, List.any_eq_true]
  constructor
  · rintro ⟨⟨px, py⟩, hmem, hset⟩
    obtain ⟨hpx, hpy, hcovers⟩ := mem_drawnPixels.mp hmem
    exact ⟨px, hpx, py, hpy, hcovers, hset⟩
  · rintro ⟨px, hpx, py, hpy, hcovers, hset⟩
    exact ⟨(px, py), mem_drawnPixels.mpr ⟨hpx, hpy, hcovers⟩, hset⟩

theorem effect_drw_flag_of_coversSome {x y n : Nibble} {s : State} (h : CoversSome x y n s s true) :
    (effect (.drw x y n) s).reg 0xF = 1 := by
  obtain ⟨c, hflag, hc⟩ := effect_drw_flag x y n s
  rw [hflag, hc.mpr h]; rfl

theorem effect_drw_flag_of_not_coversSome {x y n : Nibble} {s : State} (h : ¬ CoversSome x y n s s true) :
    (effect (.drw x y n) s).reg 0xF = 0 := by
  obtain ⟨c, hflag, hc⟩ := effect_drw_flag x y n s
  rw [hflag, Bool.eq_false_of_not_eq_true (mt hc.mp h)]; rfl

theorem raises_drw_eq_none {n : Nibble} {s : State} (h : n = 0 ∨ s.i.toNat + n.toNat - 1 ≤ 0xFFF) (x y : Nibble) :
    raises (.drw x y n) s = none := by
  refine if_neg fun ⟨hn, hrange⟩ => ?_
  have := h.resolve_left hn
  have : n.toNat ≠ 0 := fun h0 => hn (BitVec.eq_of_toNat_eq h0)
  omega

/-- Settles O28: the effect of a DRW in range, pixel by pixel, and its flag (R201). -/
theorem drawXorsSprite : Obligations.DrawXorsSprite := fun x y n s h =>
  ⟨_, exec_of_raises_none (raises_drw_eq_none h x y), fun _ hpx _ hpy => effect_drw_pixel x y n s hpx hpy,
    effect_drw_flag_of_coversSome, effect_drw_flag_of_not_coversSome, s.npc_eq, effect_changesOnly (.drw x y n) s⟩

/-- Settles O29: the second draw covers the same pixels, so it inverts them back; one of them was set before it exactly
when it was clear before the first. -/
theorem drawTwiceRestores : Obligations.DrawTwiceRestores := by
  intro x y n s h
  have hr := raises_drw_eq_none h x y
  refine ⟨_, exec_of_raises_none hr, ?_⟩
  generalize ht : ({ effect (.drw x y n) s with v := s.v } : State) = t
  have hcovers (px py : Nat) : spriteCovers t x y n px py = spriteCovers s x y n px py := by rw [← ht]; rfl
  have hdrawn {px py : Nat} (hpx : px < 64) (hpy : py < 32) :
      t.pixel px py = (s.pixel px py ^^ spriteCovers s x y n px py) := by
    rw [← effect_drw_pixel x y n s hpx hpy, ← ht]; rfl
  have hsome : CoversSome x y n t t true ↔ CoversSome x y n s s false := by
    simp only [CoversSome, hcovers]
    refine exists_congr fun px => and_congr_right fun hpx => exists_congr fun py => and_congr_right fun hpy =>
      and_congr_right fun hc => ?_
    rw [hdrawn hpx hpy, hc]
    cases s.pixel px py <;> simp
  refine ⟨_, exec_of_raises_none (by rw [← ht]; exact hr), fun px hpx py hpy => ?_, ?_, ?_⟩
  · rw [effect_drw_pixel x y n t hpx hpy, hdrawn hpx hpy, hcovers]
    simp
  · refine Iff.trans ⟨fun h1 => ?_, effect_drw_flag_of_coversSome⟩ hsome
    by_contra hno
    rw [effect_drw_flag_of_not_coversSome hno] at h1
    cases h1
  · by_cases hno : CoversSome x y n t t true
    · exact .inr (effect_drw_flag_of_coversSome hno)
    · exact .inl (effect_drw_flag_of_not_coversSome hno)

/-- A sprite with its origin off the screen covers no pixel of it (R202 (a)). -/
theorem spriteCovers_offScreen {x y n : Nibble} {s : State} (hoff : 64 ≤ (s.reg x).toNat ∨ 32 ≤ (s.reg y).toNat)
    {px py : Nat} (hpx : px < 64) (hpy : py < 32) : spriteCovers s x y n px py = false := by
  refine Bool.eq_false_of_not_eq_true fun hc => ?_
  simp only [spriteCovers, Bool.and_eq_true, decide_eq_true_eq] at hc
  omega

/-- Settles O30: no pixel is covered, so none is inverted and none collides. -/
theorem drawOffScreenIsClipped : Obligations.DrawOffScreenIsClipped := by
  intro x y n s hoff h
  refine ⟨_, exec_of_raises_none (raises_drw_eq_none h x y), effect_drw_flag_of_not_coversSome ?_, s.npc_eq, ?_⟩
  · rintro ⟨px, hpx, py, hpy, hc, -⟩
    exact Bool.false_ne_true ((spriteCovers_offScreen hoff hpx hpy).symm.trans hc)
  · intro p hp
    by_cases hpix : ∃ px py, p = .pixel px py
    · obtain ⟨px, py, rfl⟩ := hpix
      rw [Part.Same, effect_drw_pixel x y n s px.isLt py.isLt, spriteCovers_offScreen hoff px.isLt py.isLt,
        Bool.xor_false]
    · exact effect_changesOnly (.drw x y n) s p fun hw => hw.elim (hp ∘ .inl) fun hw => hw.elim (hp ∘ .inr) hpix

end Sys2Proof.Proofs

namespace Sys2Proof.Proofs

open Sys2Proof.Machine

/-! The host's operations (70_reset_and_hazards.md). -/

/-- Settles O57: the reset state is written out, so its fields are read off it; memory lists nothing, so every byte
reads as at reset (R66, R67). -/
theorem resetLeaves : Obligations.ResetLeaves := by
  intro s
  refine ⟨rfl, State.reset_reg, rfl, rfl, rfl, rfl, fun k => ?_, rfl, rfl, fun px py => fbPixel_blank px py, rfl, rfl,
    rfl, rfl, fun a ha => if_neg (by simp; omega)⟩
  simp [hostReset, State.reset]

/-- Settles O58: a load on a fresh session is the placing of the program, one range store of the bytes where they fit,
and otherwise the latch, which a step finds set. -/
theorem loadPlacesProgram : Obligations.LoadPlacesProgram := by
  intro bytes s
  refine ⟨fun hlen => ⟨_, rfl, ?_⟩, fun hlen => ⟨?_, fun keys r => ?_⟩⟩
  · rw [s.placeProgram_of_le hlen]
    exact ⟨fun k hk => read_writeBytes_add hk s.mem 0x200, writeBytes_changesOnly_bytes s 0x200 bytes,
      fun hs => Memory.writeBytes_wf bytes s.mem 0x200 hs (by omega)⟩
  · rw [load, s.placeProgram_of_lt hlen]; rfl
  · rw [Session.step, stepWith, haltedCoreStaysHalted _ _ rfl]; rfl

/-- Settles O59: the first word of unloaded memory is `0x0000`, of no row (R282). -/
theorem firstStepWithoutProgramHalts : Obligations.FirstStepWithoutProgramHalts :=
  (faultingCycleCommitsNothing State.reset rfl).1 (.invalidOpcode 0x0000) (by decide)

/-- Settles O60: each operation by how far the session has come (R282). -/
theorem loadOnlyOnceBeforeSteps : Obligations.LoadOnlyOnceBeforeSteps := by
  refine ⟨fun _ => rfl, fun _ _ => rfl, fun h => ?_, fun _ _ => rfl, fun _ _ => rfl, fun bytes h h' hload => ?_,
    fun keys r h hne => ?_⟩
  · cases h <;> exact ⟨_, rfl⟩
  · obtain ⟨s, -, rfl⟩ := (load_eq_next_iff bytes h h').mp hload
    exact ⟨_, rfl⟩
  · cases h with
    | absent => exact absurd rfl hne
    | fresh s | loaded s | stepped s =>
      obtain ⟨t, ht⟩ := stepWith_next keys r s
      exact ⟨t, by rw [Session.step, ht]; rfl⟩

end Sys2Proof.Proofs
